-- ==== Sys2Proof/Word.lean ====
section
/-! DEFINITION. Bytes, 32-bit words and the three sentinel bytes (00_scope.md R5, R6; 30_encoding.md R88). -/

namespace Sys2Proof

/-- A byte, 0 to 255 (R6). -/
abbrev Byte := BitVec 8

/-- A 32-bit pattern. The spec's `i32` value of `w` is `w.toInt`, its two's complement reading
(R6, marked there as general knowledge G1; entry 21). -/
abbrev Word := BitVec 32

/-- An error or exit code, a signed integer (R31, R152). How many bits of it travel on a port is the
open parameter CODEW (R5, R155; entry 6). -/
abbrev Code := Int

/-- `SOF`, the frame start byte (R71, R88). -/
abbrev sof : Byte := 0#8

/-- `SEP`, the operand separator (R74, R88). -/
abbrev sep : Byte := 254#8

/-- `EOF`, the frame end byte (R71, R88). -/
abbrev eof : Byte := 255#8

end Sys2Proof
end

