-- ==== Sys2Proof/Syntax.lean ====
section
/-! DEFINITION. Opcode tags, instruction values, and `Instr`: one constructor per row of
spec/opcode_table.json (30_encoding.md R72, R75, R89; 10_state.md R24, R25). -/

namespace Sys2Proof

/-- The closed enumeration of the 13 opcode tags (R25), in the order of their bytes (R72). -/
inductive Opcode where
  | add | subtract | divide | multiply | allocate | assign | interrupt | compare
  | move | addr | label | goto | clear
  deriving DecidableEq, Repr

/-- An instruction value `I = (op, params)` (R24). `op` is an unsigned number, of which the EXEC and
ENC ports carry OPW bits (R25; entry 3); `params` has any length (R27). -/
structure InstrValue where
  op : Nat
  params : List Byte
  deriving DecidableEq, Repr

/-- What one frame of a DIF stream holds: an opcode byte and the parameter bytes (R70, R71). -/
structure Frame where
  op : Byte
  params : List Byte
  deriving DecidableEq, Repr

/-- A program: a finite ordered sequence of instruction values, possibly empty (R28). -/
abbrev Program := List InstrValue

/-- The instructions of the opcode table, one constructor per row.

The first 13 carry the whole parameter sequence. `compare` stands for the `Compare` frames that
no sub-operation row takes (no selector byte, or a selector above 3); the four sub-operations
carry the bytes after their selector (R75, R89; entry 17). The six unrecognised blocks carry the
opcode bits their mask leaves free, and the parameters (R89, R130). -/
inductive Instr where
  | add (params : List Byte)
  | subtract (params : List Byte)
  | divide (params : List Byte)
  | multiply (params : List Byte)
  | allocate (params : List Byte)
  | assign (params : List Byte)
  | interrupt (params : List Byte)
  | compare (params : List Byte)
  | move (params : List Byte)
  | addr (params : List Byte)
  | label (params : List Byte)
  | goto (params : List Byte)
  | clear (params : List Byte)
  | compareEqual (buffer : List Byte)
  | compareNotEqual (buffer : List Byte)
  | compareLessThan (buffer : List Byte)
  | compareGreaterThan (buffer : List Byte)
  | unrecognised0D (params : List Byte)
  | unrecognised0E0F (low : BitVec 1) (params : List Byte)
  | unrecognised101F (low : BitVec 4) (params : List Byte)
  | unrecognised203F (low : BitVec 5) (params : List Byte)
  | unrecognised407F (low : BitVec 6) (params : List Byte)
  | unrecognised80FF (low : BitVec 7) (params : List Byte)
  deriving DecidableEq, Repr

/-- The parameter sequence of the instruction value, the selector byte included (R24, R75). -/
def Instr.params : Instr → List Byte
  | .add p | .subtract p | .divide p | .multiply p | .allocate p | .assign p | .interrupt p
  | .compare p | .move p | .addr p | .label p | .goto p | .clear p => p
  | .compareEqual b => 0#8 :: b
  | .compareNotEqual b => 1#8 :: b
  | .compareLessThan b => 2#8 :: b
  | .compareGreaterThan b => 3#8 :: b
  | .unrecognised0D p => p
  | .unrecognised0E0F _ p => p
  | .unrecognised101F _ p => p
  | .unrecognised203F _ p => p
  | .unrecognised407F _ p => p
  | .unrecognised80FF _ p => p

end Sys2Proof
end

