-- ==== Sys2Proof/Config.lean ====
section
/-! DEFINITION. What an implementation fixes: the open parameters of 00_scope.md R5, and the free
values: the facade's answer to an interrupt (43_interrupt_system.md R151) and an inexact quotient
without a rounding rule (44_arithmetic.md R173). -/

namespace Sys2Proof

/-- The two component names an error report carries (R31; D4). -/
inductive Component where
  | cpu     -- `CPU`
  | kernel  -- `Kernel`
  deriving DecidableEq, Repr

/-- One call on the facade port, as `FAC.log` records it (R31). -/
inductive FacEvent where
  | error (component : Component) (code : Code)
  | halt (exitCode : Code)
  | interrupt (code : Byte) (answer : List Byte)
  deriving DecidableEq, Repr

/-- DIV_ROUND: the rounding of an inexact quotient (R173; entry 8). -/
inductive DivRound where
  /-- The spec's default: the fraction is dropped. -/
  | towardZero
  /-- The largest integer not above the exact quotient. -/
  | floor
  /-- Any rounding at all: inexact quotients are free values (`Config.inexactQuotient`). -/
  | unconstrained
  deriving DecidableEq, Repr

/-- DIV_OVF: what `-2147483648 / -1` does (R174; entry 9). -/
inductive DivOvf where
  | wrap
  | fault
  deriving DecidableEq, Repr

/-- The open parameters of R5 that are data (entry 4). They are fixed at build time (R32): no step
writes them. -/
structure Config where
  /-- OPW, how many bits of an opcode number the EXEC and ENC ports carry (R25, D2; entry 3). -/
  opw : Nat
  /-- CODEW, how many bits of a code the REPORT_FATAL and FAC ports carry (R155, D5; entry 6). -/
  codew : Nat
  /-- PARAM_MAX; `none` is unbounded (D3; entry 5). -/
  paramMax : Option Nat
  /-- DIVZ_CODE (D8; entry 7). -/
  divzCode : Code
  /-- DIV_ROUND (D9; entry 8). -/
  divRound : DivRound
  /-- DIV_OVF (D10; entry 9). -/
  divOvf : DivOvf
  /-- CMP_TRUE, its one byte (D6; entry 10). -/
  cmpTrue : Byte
  /-- CMP_FALSE, its one byte (D6; entry 10). -/
  cmpFalse : Byte
  /-- HALT_EXIT_CODE (D12; entry 19). -/
  haltExitCode : Code
  deriving DecidableEq, Repr

/-- The defaults of R5, the spec's own choice (DESIGN CHOICE; entries 3 to 10 and 19). -/
def Config.default : Config where
  opw := 8
  codew := 32
  paramMax := none
  divzCode := 6
  divRound := .towardZero
  divOvf := .wrap
  cmpTrue := 1#8
  cmpFalse := 0#8
  haltExitCode := 0

/-- What R145 asks of the two comparison bytes: false is 0 and true is not. -/
abbrev Config.CmpOk (c : Config) : Prop := c.cmpFalse = 0#8 ∧ c.cmpTrue ≠ 0#8

/-- Whether a code is a signed integer of CODEW bits (R5, R31). -/
abbrev Config.CodeFits (c : Config) (k : Int) : Prop :=
  -((2 ^ c.codew : Nat) : Int) ≤ 2 * k ∧ 2 * k < ((2 ^ c.codew : Nat) : Int)

/-- The widths are large enough for what travels on them: OPW for the 13 tags (R72), CODEW for the
codes of R221 and for the two codes that are parameters (entries 3 and 6). -/
abbrev Config.WidthsOk (c : Config) : Prop :=
  4 ≤ c.opw ∧ 4 ≤ c.codew ∧ c.CodeFits c.divzCode ∧ c.CodeFits c.haltExitCode

/-- `IntOracle(FAC.log, code)` of R151: the answer bytes and whether the facade sets the halt latch.
A FREE VALUE: no body, under no law. The first argument says which facade is connected
(entry 11), so that even two runs with the same calls need not get the same answers. -/
opaque Config.intOracle : Nat → List FacEvent → Byte → List Byte × Bool

/-- An inexact quotient `a / b` under no rounding rule, the last reading of R173, "constrained only
for exact quotients". A FREE VALUE: no body (entry 8). -/
opaque Config.inexactQuotient : Int → Int → Int

end Sys2Proof
end

