-- ==== Sys2Proof/Machine/Operands.lean ====
section
/-! DEFINITION. The operand unpacker (40_operand_unpacker.md R100 to R103), the byte order of
operands and results (20_memory.md R51), the canonical packing (30_encoding.md R79), and the
primitives `wrap32`, `int32_le`, `le32` (00_scope.md R7); and the widths of the ports (R5). -/

namespace Sys2Proof.Machine

/-- `split254(s)`: cuts at the first separator, which belongs to neither segment (R101). -/
def split254 : List Byte → List Byte × List Byte
  | [] => ([], [])
  | x :: xs =>
    if x = sep then ([], xs)
    else (x :: (split254 xs).1, (split254 xs).2)

/-- `norm4(S)`: the first four bytes, zero bytes added at the end (R102). -/
def norm4 (segment : List Byte) : List Byte := (segment ++ List.replicate 4 0#8).take 4

/-- `int32_le(b)` on a sequence of four bytes, the first the least significant (R7, R103). -/
def int32Le (bytes : List Byte) : Word :=
  BitVec.ofNat 32
    ((bytes.getD 0 0#8).toNat + 256 * (bytes.getD 1 0#8).toNat
      + 65536 * (bytes.getD 2 0#8).toNat + 16777216 * (bytes.getD 3 0#8).toNat)

/-- `le32(v)`: the four bytes of `v`, the least significant first (R7, R51). -/
def le32 (v : Word) : List Byte :=
  [v.extractLsb' 0 8, v.extractLsb' 8 8, v.extractLsb' 16 8, v.extractLsb' 24 8]

/-- `decode_two(s)`: the two operands of a packed dual-operand buffer (R100). -/
def decodeTwo (s : List Byte) : Word × Word :=
  (int32Le (norm4 (split254 s).1), int32Le (norm4 (split254 s).2))

/-- `pack(a, b)`, the canonical packing (R79). -/
def pack (a b : Word) : List Byte := le32 a ++ [sep] ++ le32 b

/-- `wrap32(v)`: the `i32` congruent to `v` modulo `2^32` (R7). -/
def wrap32 (v : Int) : Word := BitVec.ofInt 32 v

/-- The low OPW bits of an opcode number, what the EXEC and ENC ports carry of it (R25; entry 3). -/
def opAtPort (cfg : Config) (n : Nat) : Nat := n % 2 ^ cfg.opw

/-- The low CODEW bits of a code, signed, what the REPORT_FATAL port carries of it (R152, R155;
entry 6). -/
def codeAtPort (cfg : Config) (k : Int) : Int := k.bmod (2 ^ cfg.codew)

/-- An instruction value as the EXEC and ENC ports carry it (R25; entry 3). -/
def valueAtPort (cfg : Config) (v : InstrValue) : InstrValue := { v with op := opAtPort cfg v.op }

/-- A program as the ENC port carries it (R25; entry 3). -/
def programAtPort (cfg : Config) (program : Program) : Program := program.map (valueAtPort cfg)

end Sys2Proof.Machine
end

