-- ==== Sys2Proof/Machine/State.lean ====
section
/-! DEFINITION. The state of the block and of its environment's record (10_state.md R20, R29, R31,
R36), the requests and outputs of the ports (00_scope.md R9), the faults (60_exceptions.md R221,
R227), and the reset state. -/

namespace Sys2Proof.Machine

/-- Why the machine stops. Raised by the three dispatcher ports only. -/
inductive Fault where
  /-- `FAC.halted` is set and only EXEC, REPORT_FATAL or HALT requests wait: the dispatcher has no
  step (R132). A stuck state, raised by `step` and, for exec alone, by `whileRunning`. Safe: nothing
  is claimed of what follows (entry 12). -/
  | dispatcherHalted
  deriving DecidableEq, Repr

/-- Why an instruction has no meaning. -/
inductive Refusal where
  /-- An instruction of the table that exec does not model; raised by a refused arm of exec only.
  Safe. No arm of this model answers it. -/
  | notModelled (mnemonic : String)
  deriving DecidableEq, Repr

/-- The dispatcher faults of R221. Each is delivered to the facade and is a next state (R222). -/
inductive DispatcherFault where
  | unknownOpcode
  | interruptArity
  | reservedTier
  | compareArity
  | compareSelector
  | divideByZero
  | divideOverflow
  | reportedFatal (code : Code)
  deriving DecidableEq, Repr

/-- The framer faults of R227. Each is an output of DEC or ENC and touches no facade (R203). -/
inductive FramerFault where
  | encodeNoEntry
  | decodeUnknownOpcode
  | decodeStrayByte
  | decodeStrayEnd
  | decodeTruncatedOpcode
  | paramOverflow
  deriving DecidableEq, Repr

/-- `DS` of R29. -/
inductive DecodeState where
  | idle
  | readingOpcode
  | accumulating
  deriving DecidableEq, Repr

/-- The framer's decode state, the block's only own state (R20, R29). -/
structure Framer where
  /-- `DS`. -/
  ds : DecodeState
  /-- `cur.op`, meaningful only while `ds` is `accumulating`. -/
  curOp : Opcode
  /-- `cur.params`, meaningful only while `ds` is `accumulating`. -/
  curParams : List Byte
  /-- `out`, the instructions closed so far, in closing order. -/
  out : Program
  deriving DecidableEq, Repr

/-- `FAC`, the record of the facade that the block writes (R31). -/
structure Fac where
  /-- `FAC.log`, in call order. -/
  log : List FacEvent
  /-- `FAC.halted`, sticky. -/
  halted : Bool
  /-- `FAC.exit_code`. -/
  exitCode : Code
  deriving DecidableEq, Repr

/-- A request presented on one of the five slave ports (R9). -/
inductive Request where
  | exec (value : InstrValue)
  | reportFatal (code : Code)
  | halt
  | dec (stream : List Byte)
  | enc (program : Program)
  deriving DecidableEq, Repr

/-- Whether a request is on one of the three dispatcher ports, EXEC, REPORT_FATAL and HALT, which take
nothing once the halt latch is set; DEC and ENC take their requests whatever it is (R132, R185). -/
def Request.isDispatcher : Request → Bool
  | .exec _ | .reportFatal _ | .halt => true
  | .dec _ | .enc _ => false

/-- The output of a completed transaction (R9, R39, R190, R202). REPORT_FATAL and HALT output
nothing; their entry records that the transaction returned (entry 2). -/
inductive Response where
  | exec (result : Option (List Byte))
  | reportFatal
  | halt
  | decOk (program : Program)
  | decFault (reason : FramerFault)
  | encOk (stream : List Byte)
  | encFault (reason : FramerFault)
  deriving DecidableEq, Repr

/-- The state of the machine: `framer` (R29) and `fac` (R31) are the spec's, the rest is the
model's own (INVENTORY.md, State). -/
structure State where
  /-- The framer's decode state (R29). -/
  framer : Framer
  /-- The facade's record (R31). -/
  fac : Fac
  /-- The bytes of the DEC transaction in progress not yet consumed; none when none is in progress
  (R191; entry 1). -/
  decIn : Option (List Byte)
  /-- The code of the `FAC.interrupt` call in progress, whose `execute` has not returned; none when
  none is in progress (R150, R151; entry 11). -/
  awaiting : Option Byte
  /-- The requests presented and not yet accepted, in order (R9, R57; entry 2). -/
  pending : List Request
  /-- The outputs of the completed transactions, in order (R9; entry 2). -/
  responses : List Response
  /-- Whether a reset has been requested (R260; entry 14). -/
  resetLine : Bool
  /-- The open parameters, which no step writes (R5, R32; entry 4). -/
  cfg : Config
  /-- Which facade is connected, the index of the interrupt oracle (R151, R262; entry 11). -/
  facade : Nat
  /-- Whether the facade answers an interrupt call now; an input, which no step writes. A facade that
  is slow is one that leaves it down for some steps, one that never answers leaves it down for ever
  (R151, R272; entry 11). -/
  facadeReady : Bool
  deriving DecidableEq, Repr

/-- The framer's reset values (R36). `curOp` and `curParams` are unspecified there: the values here
are the model's (DESIGN CHOICE, entry 13). -/
def Framer.reset : Framer := ⟨.idle, .add, [], []⟩

/-- The facade record's reset values (R36). `exitCode` is unspecified there: the value here is the
model's (DESIGN CHOICE, entry 13). -/
def Fac.reset : Fac := ⟨[], false, 0⟩

/-- The machine right after reset (R36, R260, R261): nothing in progress, nothing presented, the
default parameters. -/
def State.reset : State where
  framer := .reset
  fac := .reset
  decIn := none
  awaiting := none
  pending := []
  responses := []
  resetLine := false
  cfg := .default
  facade := 0
  facadeReady := true

end Sys2Proof.Machine
end

