-- ==== Sys2Proof/Machine/Ops.lean ====
section
/-! DEFINITION. The named operations over the state: the three facade calls (10_state.md R31),
taking a dispatcher fault (60_exceptions.md R221, R222), ending a transaction with an output, the
halt condition of the dispatcher ports (41_dispatch_reserved.md R132), and reset
(70_reset_and_hazards.md R260). There is no return from a fault to model: the block has none
(R225), and only reset clears the halt latch. -/

namespace Sys2Proof.Machine

/-- `FAC.error(c, k)`: one event (R31). -/
def facError (component : Component) (code : Code) (s : State) : State :=
  { s with fac := { s.fac with log := s.fac.log ++ [.error component code] } }

/-- `FAC.halt(k)`: one event; the latch is set and the exit code is this call's (R31, R222). -/
def facHalt (exitCode : Code) (s : State) : State :=
  { s with fac := { log := s.fac.log ++ [.halt exitCode], halted := true, exitCode := exitCode } }

/-- `FAC.interrupt(code)` answered by `(r, h)`: one event, and the latch is set if `h` (R151). -/
def facInterrupt (code : Byte) (answer : List Byte × Bool) (s : State) : State :=
  { s with fac := { s.fac with
      log := s.fac.log ++ [.interrupt code answer.1], halted := s.fac.halted || answer.2 } }

/-- A transaction ends with an output (R9). -/
def respond (r : Response) (s : State) : State := { s with responses := s.responses ++ [r] }

/-- EXEC ends with `Some(r)` (R39). -/
def returnResult (r : List Byte) (s : State) : State := respond (.exec (some r)) s

/-- The `(component, code)` pair of a dispatcher fault (R221). -/
def faultPair (cfg : Config) : DispatcherFault → Component × Code
  | .unknownOpcode => (.cpu, 0)
  | .interruptArity => (.cpu, 1)
  | .reservedTier => (.kernel, 3)
  | .compareArity => (.cpu, 4)
  | .compareSelector => (.cpu, 5)
  | .divideByZero => (.cpu, cfg.divzCode)
  | .divideOverflow => (.cpu, cfg.divzCode)
  | .reportedFatal code => (.kernel, code)

/-- Delivery of a dispatcher fault: `FAC.error(c, k)`, then `FAC.halt(1)` (R62, R222). It saves
nothing and transfers control nowhere (R224). -/
def deliverFault (f : DispatcherFault) (s : State) : State :=
  facHalt 1 (facError (faultPair s.cfg f).1 (faultPair s.cfg f).2 s)

/-- `raise F` in `execute`: the fault is delivered and the result is `None` (R222). -/
def raiseFault (f : DispatcherFault) (s : State) : State := respond (.exec none) (deliverFault f s)

/-- `require FAC.halted = false`: a dispatcher transaction has a step only while the latch is clear
(R132; entry 12). -/
def whileRunning (s t : State) : Host.Outcome State Fault Refusal :=
  if s.fac.halted then .fault .dispatcherHalted else .next t

/-- Reset: every piece of state of R36 at its reset value, a transaction in progress aborted
without output, no facade call (R260). The requests not yet accepted and the outputs already
delivered belong to the callers and stay (entry 14). -/
def resetBlock (s : State) : State :=
  { s with framer := .reset, fac := .reset, decIn := none, awaiting := none,
           resetLine := false }

end Sys2Proof.Machine
end

