-- ==== Sys2Proof/Machine/Arithmetic.lean ====
section
/-! DEFINITION. `Add`, `Subtract`, `Multiply`, `Divide` (44_arithmetic.md R165 to R176). -/

namespace Sys2Proof.Machine

/-- The magnitude quotient `floor(|a| / |b|)` with its sign (R169). -/
def quotientTowardZero (a b : Int) : Int :=
  if (a < 0) = (b < 0) then ((a.natAbs / b.natAbs : Nat) : Int)
  else -((a.natAbs / b.natAbs : Nat) : Int)

/-- The quotient under DIV_ROUND (R173; entry 8). -/
def quotient (round : DivRound) (a b : Int) : Int :=
  match round with
  | .towardZero => quotientTowardZero a b
  | .floor => Int.fdiv a b
  | .unconstrained => if a % b = 0 then quotientTowardZero a b else Config.inexactQuotient a b

/-- `div32(a, b)`, by the two open parameters (R169, R172, R173, R174). Zero is tested before the
overflow pair (R229). -/
def div32 (cfg : Config) (a b : Word) : Except DispatcherFault Word :=
  if b.toInt = 0 then .error .divideByZero
  else if a.toInt = -2147483648 ∧ b.toInt = -1 then
    match cfg.divOvf with
    | .wrap => .ok (wrap32 2147483648)
    | .fault => .error .divideOverflow
  else .ok (wrap32 (quotient cfg.divRound a.toInt b.toInt))

/-- The common handler of the four opcodes (R165): unpack the whole parameter sequence, compute,
return four bytes little-endian (R171) or raise. -/
def arith (compute : Word → Word → Except DispatcherFault Word) (params : List Byte) (s : State) :
    Host.Outcome State Fault Refusal :=
  whileRunning s
    (match compute (decodeTwo params).1 (decodeTwo params).2 with
     | .ok v => returnResult (le32 v) s
     | .error f => raiseFault f s)

/-- `Add` (R166). -/
def execAdd (params : List Byte) (s : State) : Host.Outcome State Fault Refusal :=
  arith (fun a b => .ok (wrap32 (a.toInt + b.toInt))) params s

/-- `Subtract` (R167). -/
def execSubtract (params : List Byte) (s : State) : Host.Outcome State Fault Refusal :=
  arith (fun a b => .ok (wrap32 (a.toInt - b.toInt))) params s

/-- `Multiply` (R168). -/
def execMultiply (params : List Byte) (s : State) : Host.Outcome State Fault Refusal :=
  arith (fun a b => .ok (wrap32 (a.toInt * b.toInt))) params s

/-- `Divide` (R169). -/
def execDivide (params : List Byte) (s : State) : Host.Outcome State Fault Refusal :=
  arith (div32 s.cfg) params s

end Sys2Proof.Machine
end

