-- ==== Sys2Proof/Machine/Flags.lean ====
section
/-! DEFINITION. The block has no flags (10_state.md R23): its only condition is the outcome of a
comparison, which leaves as a result byte (42_compare.md R140 to R147). -/

namespace Sys2Proof.Machine

/-- The four comparison sub-operations (R140). -/
inductive CompareOp where
  | equal
  | notEqual
  | lessThan
  | greaterThan
  deriving DecidableEq, Repr

/-- The sub-operation of a selector byte, none for 4 to 255 (R75, R81). -/
def compareOp (sel : Byte) : Option CompareOp :=
  match sel.toNat with
  | 0 => some .equal
  | 1 => some .notEqual
  | 2 => some .lessThan
  | 3 => some .greaterThan
  | _ => none

/-- The outcome of a comparison of two signed operands (R141 to R144, R147). -/
def compareHolds (op : CompareOp) (a b : Word) : Bool :=
  match op with
  | .equal => decide (a.toInt = b.toInt)
  | .notEqual => decide (a.toInt ≠ b.toInt)
  | .lessThan => decide (a.toInt < b.toInt)
  | .greaterThan => decide (a.toInt > b.toInt)

/-- The result bytes of an outcome, CMP_TRUE or CMP_FALSE (R145; entry 10). -/
def compareResult (cfg : Config) (outcome : Bool) : List Byte :=
  if outcome then [cfg.cmpTrue] else [cfg.cmpFalse]

end Sys2Proof.Machine
end

