-- ==== Sys2Proof/Machine/Compare.lean ====
section
/-! DEFINITION. `Compare` and its four sub-operations (42_compare.md R140 to R147). -/

namespace Sys2Proof.Machine

/-- What `compare` does with a legal selector and a packed dual-operand buffer (R140, R145). -/
def compareBuffer (op : CompareOp) (buffer : List Byte) (s : State) : State :=
  returnResult
    (compareResult s.cfg (compareHolds op (decodeTwo buffer).1 (decodeTwo buffer).2)) s

/-- `compare(params)`: the length check, then the selector check, then the comparison
(R140, R146). -/
def compareParams (params : List Byte) (s : State) : State :=
  if params.length < 3 then raiseFault .compareArity s
  else
    match compareOp (params.getD 0 0#8) with
    | none => raiseFault .compareSelector s
    | some op => compareBuffer op (params.drop 1) s

/-- A sub-operation row: its selector is known, the length check remains; the selector counts
(R140). -/
def compareSub (op : CompareOp) (buffer : List Byte) (s : State) :
    Host.Outcome State Fault Refusal :=
  whileRunning s
    (if buffer.length + 1 < 3 then raiseFault .compareArity s else compareBuffer op buffer s)

/-- `Compare` (R140). -/
def execCompare (params : List Byte) (s : State) : Host.Outcome State Fault Refusal :=
  whileRunning s (compareParams params s)

/-- `Compare.Equal` (R141). -/
def execCompareEqual (buffer : List Byte) (s : State) : Host.Outcome State Fault Refusal :=
  compareSub .equal buffer s

/-- `Compare.NotEqual` (R142). -/
def execCompareNotEqual (buffer : List Byte) (s : State) : Host.Outcome State Fault Refusal :=
  compareSub .notEqual buffer s

/-- `Compare.LessThan` (R143). -/
def execCompareLessThan (buffer : List Byte) (s : State) : Host.Outcome State Fault Refusal :=
  compareSub .lessThan buffer s

/-- `Compare.GreaterThan` (R144). -/
def execCompareGreaterThan (buffer : List Byte) (s : State) : Host.Outcome State Fault Refusal :=
  compareSub .greaterThan buffer s

end Sys2Proof.Machine
end

