-- ==== Sys2Proof/Machine/Reserved.lean ====
section
/-! DEFINITION. The seven kernel-tier opcodes and the unrecognised opcode numbers
(41_dispatch_reserved.md R123 to R131). The parameters are never read (R130, R131). -/

namespace Sys2Proof.Machine

/-- `raise ReservedTier` (R131). -/
def reservedTier (s : State) : Host.Outcome State Fault Refusal :=
  whileRunning s (raiseFault .reservedTier s)

/-- `raise UnknownOpcode` (R130). -/
def unknownOpcode (s : State) : Host.Outcome State Fault Refusal :=
  whileRunning s (raiseFault .unknownOpcode s)

/-- `Clear` (R123). -/
def execClear (_params : List Byte) (s : State) :
    Host.Outcome State Fault Refusal :=
  reservedTier s

/-- `Label` (R124). -/
def execLabel (_params : List Byte) (s : State) :
    Host.Outcome State Fault Refusal :=
  reservedTier s

/-- `Goto` (R125). -/
def execGoto (_params : List Byte) (s : State) :
    Host.Outcome State Fault Refusal :=
  reservedTier s

/-- `Move` (R126). -/
def execMove (_params : List Byte) (s : State) :
    Host.Outcome State Fault Refusal :=
  reservedTier s

/-- `Assign` (R127). -/
def execAssign (_params : List Byte) (s : State) :
    Host.Outcome State Fault Refusal :=
  reservedTier s

/-- `Addr` (R128). -/
def execAddr (_params : List Byte) (s : State) :
    Host.Outcome State Fault Refusal :=
  reservedTier s

/-- `Allocate` (R129). -/
def execAllocate (_params : List Byte) (s : State) :
    Host.Outcome State Fault Refusal :=
  reservedTier s

/-- The number 13 (R130). -/
def execUnrecognised0D (_params : List Byte) (s : State) :
    Host.Outcome State Fault Refusal :=
  unknownOpcode s

/-- The numbers 14 and 15 (R130). -/
def execUnrecognised0E0F (_low : BitVec 1) (_params : List Byte) (s : State) :
    Host.Outcome State Fault Refusal :=
  unknownOpcode s

/-- The numbers 16 to 31 (R130). -/
def execUnrecognised101F (_low : BitVec 4) (_params : List Byte) (s : State) :
    Host.Outcome State Fault Refusal :=
  unknownOpcode s

/-- The numbers 32 to 63 (R130). -/
def execUnrecognised203F (_low : BitVec 5) (_params : List Byte) (s : State) :
    Host.Outcome State Fault Refusal :=
  unknownOpcode s

/-- The numbers 64 to 127 (R130). -/
def execUnrecognised407F (_low : BitVec 6) (_params : List Byte) (s : State) :
    Host.Outcome State Fault Refusal :=
  unknownOpcode s

/-- The numbers 128 to 255 (R130). -/
def execUnrecognised80FF (_low : BitVec 7) (_params : List Byte) (s : State) :
    Host.Outcome State Fault Refusal :=
  unknownOpcode s

end Sys2Proof.Machine
end

