-- ==== Sys2Proof/Machine/System.lean ====
section
/-! DEFINITION. `Interrupt` and the two dispatcher commands `report_fatal` and `halt`
(43_interrupt_system.md R150 to R156). -/

namespace Sys2Proof.Machine

/-- `FAC.interrupt` is called once and its answer is the result, verbatim (R150). The answer is an
argument: the meaning of `Interrupt` supplies it from the oracle. -/
def interruptCall (code : Byte) (answer : List Byte × Bool) (s : State) : State :=
  returnResult answer.1 (facInterrupt code answer s)

/-- The facade has been called and has not answered: `execute` has not returned (R151; entry 11). -/
def awaitAnswer (code : Byte) (s : State) : State := { s with awaiting := some code }

/-- `Interrupt` (R150): exactly one parameter byte, else the facade is not called. A facade that
answers gives the oracle's answer (R151; entry 11), and under one that does not `execute` goes on
waiting for it. -/
def execInterrupt (params : List Byte) (s : State) : Host.Outcome State Fault Refusal :=
  whileRunning s
    (match params with
     | [code] =>
       if s.facadeReady then interruptCall code (Config.intOracle s.facade s.fac.log code) s
       else awaitAnswer code s
     | _ => raiseFault .interruptArity s)

/-- The facade answers the call in progress, and `execute` returns (R150, R151). -/
def answerInterrupt (code : Byte) (s : State) : State :=
  interruptCall code (Config.intOracle s.facade s.fac.log code) { s with awaiting := none }

/-- `report_fatal(code)`: a `Kernel` error with the caller's code, then halt(1) (R152). -/
def reportFatal (code : Code) (s : State) : Host.Outcome State Fault Refusal :=
  whileRunning s (respond .reportFatal (deliverFault (.reportedFatal code) s))

/-- `halt()`: `FAC.halt(HALT_EXIT_CODE)` and no error call (R153, R154; entry 19). -/
def haltCommand (s : State) : Host.Outcome State Fault Refusal :=
  whileRunning s (respond .halt (facHalt s.cfg.haltExitCode s))

end Sys2Proof.Machine
end

