-- ==== Sys2Proof/Machine/Dispatch.lean ====
section
/-! DEFINITION. One arm per constructor of `Instr` (41_dispatch_reserved.md R121). -/

namespace Sys2Proof.Machine

def exec (i : Instr) (s : State) : Host.Outcome State Fault Refusal :=
  match i with
  | .add params => Sys2Proof.Machine.execAdd params s
  | .subtract params => Sys2Proof.Machine.execSubtract params s
  | .divide params => Sys2Proof.Machine.execDivide params s
  | .multiply params => Sys2Proof.Machine.execMultiply params s
  | .allocate params => Sys2Proof.Machine.execAllocate params s
  | .assign params => Sys2Proof.Machine.execAssign params s
  | .interrupt params => Sys2Proof.Machine.execInterrupt params s
  | .compare params => Sys2Proof.Machine.execCompare params s
  | .move params => Sys2Proof.Machine.execMove params s
  | .addr params => Sys2Proof.Machine.execAddr params s
  | .label params => Sys2Proof.Machine.execLabel params s
  | .goto params => Sys2Proof.Machine.execGoto params s
  | .clear params => Sys2Proof.Machine.execClear params s
  | .compareEqual buffer => Sys2Proof.Machine.execCompareEqual buffer s
  | .compareNotEqual buffer => Sys2Proof.Machine.execCompareNotEqual buffer s
  | .compareLessThan buffer => Sys2Proof.Machine.execCompareLessThan buffer s
  | .compareGreaterThan buffer => Sys2Proof.Machine.execCompareGreaterThan buffer s
  | .unrecognised0D params => Sys2Proof.Machine.execUnrecognised0D params s
  | .unrecognised0E0F low params => Sys2Proof.Machine.execUnrecognised0E0F low params s
  | .unrecognised101F low params => Sys2Proof.Machine.execUnrecognised101F low params s
  | .unrecognised203F low params => Sys2Proof.Machine.execUnrecognised203F low params s
  | .unrecognised407F low params => Sys2Proof.Machine.execUnrecognised407F low params s
  | .unrecognised80FF low params => Sys2Proof.Machine.execUnrecognised80FF low params s

end Sys2Proof.Machine
end

