-- ==== Sys2Proof/WellFormed.lean ====
section
/-! DEFINITION. Which terms of `Instr` are some instruction value's row (entry 17), which can be
stored on a DIF stream (R204, R265), and which respect PARAM_MAX (R27). -/

namespace Sys2Proof

/-- Whether a parameter sequence begins with one of the four legal selectors (R75). -/
def startsWithSelector : List Byte → Bool
  | [] => false
  | x :: _ => decide (x.toNat ≤ 3)

/-- The only term that is not the row of its own instruction value is `compare` of a parameter
sequence that a sub-operation row takes (R89; entry 17). -/
def Instr.wellFormed : Instr → Bool
  | .compare p => !startsWithSelector p
  | _ => true

/-- A term is well formed when it is the row its instruction value belongs to. -/
abbrev WellFormed (i : Instr) : Prop := i.wellFormed = true

/-- An instruction value can be stored in DIF when no parameter byte is the frame end byte
(R204, R206, R265). -/
abbrev Storable (v : InstrValue) : Prop := eof ∉ v.params

/-- Whether a parameter sequence respects PARAM_MAX; `none` is the default, unbounded (R27). -/
def fits (paramMax : Option Nat) (params : List Byte) : Bool :=
  match paramMax with
  | none => true
  | some m => decide (params.length ≤ m)

/-- `fits` as a proposition. -/
abbrev Fits (paramMax : Option Nat) (params : List Byte) : Prop := fits paramMax params = true

end Sys2Proof
end

