-- ==== Sys2Proof/Decode.lean ====
section
/-! DEFINITION. The opcode byte table (30_encoding.md R72), the instruction an instruction value
stands for (R89), reading one frame of bytes (R70, R71, R83), and the encoder. -/

namespace Sys2Proof

/-- The tag of an opcode number: the number of a tag is its opcode byte, and every other number, 13
and above, has no tag (R25, R72). -/
def tagOf (n : Nat) : Option Opcode :=
  match n with
  | 0 => some .add
  | 1 => some .subtract
  | 2 => some .divide
  | 3 => some .multiply
  | 4 => some .allocate
  | 5 => some .assign
  | 6 => some .interrupt
  | 7 => some .compare
  | 8 => some .move
  | 9 => some .addr
  | 10 => some .label
  | 11 => some .goto
  | 12 => some .clear
  | _ => none

/-- `optag(b)` of R72: the tag whose opcode byte is `b`, none for 13 to 255. -/
def optag (b : Byte) : Option Opcode := tagOf b.toNat

/-- `opbyte(op)` of R72. -/
def opbyte : Opcode → Byte
  | .add => 0#8
  | .subtract => 1#8
  | .divide => 2#8
  | .multiply => 3#8
  | .allocate => 4#8
  | .assign => 5#8
  | .interrupt => 6#8
  | .compare => 7#8
  | .move => 8#8
  | .addr => 9#8
  | .label => 10#8
  | .goto => 11#8
  | .clear => 12#8

/-- The row of a `Compare` parameter sequence: a sub-operation row for the selectors 0 to 3, else
the row `Compare` itself (R75, R89; entry 17). -/
def compareRow : List Byte → Instr
  | [] => .compare []
  | sel :: buffer =>
    match sel.toNat with
    | 0 => .compareEqual buffer
    | 1 => .compareNotEqual buffer
    | 2 => .compareLessThan buffer
    | 3 => .compareGreaterThan buffer
    | _ => .compare (sel :: buffer)

/-- The row of a recognised tag (R72, R89). -/
def recognisedRow (tag : Opcode) (params : List Byte) : Instr :=
  match tag with
  | .add => .add params
  | .subtract => .subtract params
  | .divide => .divide params
  | .multiply => .multiply params
  | .allocate => .allocate params
  | .assign => .assign params
  | .interrupt => .interrupt params
  | .compare => compareRow params
  | .move => .move params
  | .addr => .addr params
  | .label => .label params
  | .goto => .goto params
  | .clear => .clear params

/-- The row of a number 13 to 255, by the blocks the masks express (R89). -/
def unrecognisedRow (op : Byte) (params : List Byte) : Instr :=
  if op.toNat < 14 then .unrecognised0D params
  else if op.toNat < 16 then .unrecognised0E0F (op.setWidth 1) params
  else if op.toNat < 32 then .unrecognised101F (op.setWidth 4) params
  else if op.toNat < 64 then .unrecognised203F (op.setWidth 5) params
  else if op.toNat < 128 then .unrecognised407F (op.setWidth 6) params
  else .unrecognised80FF (op.setWidth 7) params

/-- The row a frame belongs to. Total: the rows cover all 256 values of the opcode byte (R89). -/
def Instr.ofFrame (f : Frame) : Instr :=
  match optag f.op with
  | some tag => recognisedRow tag f.params
  | none => unrecognisedRow f.op f.params

/-- The frame of an instruction value, whose number is below 256 (R25, R186). -/
def InstrValue.toFrame (v : InstrValue) : Frame := ⟨BitVec.ofNat 8 v.op, v.params⟩

/-- The instruction an instruction value stands for, none for the numbers 256 and above, which have
no row in the table and exist only where OPW exceeds 8 (R25, R89, R121; entry 3). -/
def Instr.ofValue (v : InstrValue) : Option Instr :=
  if v.op < 256 then some (Instr.ofFrame v.toFrame) else none

/-- Why a byte sequence does not begin with one whole frame (R70, R71). -/
inductive FrameReject where
  /-- There is no byte at all. -/
  | noBytes
  /-- The first byte is not the frame start byte. -/
  | noFrameStart (found : Byte)
  /-- The bytes end right after the frame start byte. -/
  | noOpcode
  /-- No frame end byte follows the opcode byte. -/
  | noFrameEnd
  deriving DecidableEq, Repr

/-- Cuts at the first frame end byte: the bytes before it and the bytes after it (R83). -/
def cutAtFrameEnd : List Byte → Option (List Byte × List Byte)
  | [] => none
  | x :: xs =>
    if x = eof then some ([], xs)
    else
      match cutAtFrameEnd xs with
      | none => none
      | some (params, rest) => some (x :: params, rest)

/-- Reads one frame: what it holds and the bytes after it (R71, R83). The opcode byte
is not looked up here: the DEC port does that and faults on 13 to 255 (R193; entry 18). -/
def decodeFrame (bytes : List Byte) : Except FrameReject (Frame × List Byte) :=
  match bytes with
  | [] => .error .noBytes
  | x :: xs =>
    if x = sof then
      match xs with
      | [] => .error .noOpcode
      | op :: body =>
        match cutAtFrameEnd body with
        | none => .error .noFrameEnd
        | some (params, rest) => .ok (⟨op, params⟩, rest)
    else .error (.noFrameStart x)

/-- Reads one instruction of the opcode table from bytes, and the bytes after it; rejects by name. -/
def decode (bytes : List Byte) : Except FrameReject (Instr × List Byte) :=
  match decodeFrame bytes with
  | .error r => .error r
  | .ok (f, rest) => .ok (Instr.ofFrame f, rest)

/-- The opcode number of a row (R72, R89): for an unrecognised block, the bits its mask fixes above
the bits it leaves free. -/
def Instr.opNumber : Instr → Byte
  | .add _ => 0#8
  | .subtract _ => 1#8
  | .divide _ => 2#8
  | .multiply _ => 3#8
  | .allocate _ => 4#8
  | .assign _ => 5#8
  | .interrupt _ => 6#8
  | .compare _ => 7#8
  | .move _ => 8#8
  | .addr _ => 9#8
  | .label _ => 10#8
  | .goto _ => 11#8
  | .clear _ => 12#8
  | .compareEqual _ => 7#8
  | .compareNotEqual _ => 7#8
  | .compareLessThan _ => 7#8
  | .compareGreaterThan _ => 7#8
  | .unrecognised0D _ => 13#8
  | .unrecognised0E0F low _ => 0b0000111#7 ++ low
  | .unrecognised101F low _ => 0b0001#4 ++ low
  | .unrecognised203F low _ => 0b001#3 ++ low
  | .unrecognised407F low _ => 0b01#2 ++ low
  | .unrecognised80FF low _ => 0b1#1 ++ low

/-- The instruction value of a row (R24, R73). -/
def Instr.toValue (i : Instr) : InstrValue := ⟨i.opNumber.toNat, i.params⟩

/-- The bytes of a frame: `0x00 opcodeByte paramByte* 0xFF` (R71, R186). Whether ENC emits a frame
for a number is ENC's own check (R188; entry 18). -/
def Frame.bytes (f : Frame) : List Byte := sof :: f.op :: (f.params ++ [eof])

/-- The encoder: the frame of a row, as its `encoding` in opcode_table.json writes it (R89). -/
def encode (i : Instr) : List Byte := Frame.bytes ⟨i.opNumber, i.params⟩

/-- How many leading frame bytes the mask of a row covers: 3 for a `Compare` sub-operation, else 2
(R89). -/
def Instr.matchBytes : Instr → Nat
  | .compareEqual _ | .compareNotEqual _ | .compareLessThan _ | .compareGreaterThan _ => 3
  | _ => 2

/-- The `mask` of a row of opcode_table.json (R89). -/
def Instr.rowMask : Instr → Nat
  | .compareEqual _ | .compareNotEqual _ | .compareLessThan _ | .compareGreaterThan _ => 0xFFFFFF
  | .unrecognised0E0F _ _ => 0xFFFE
  | .unrecognised101F _ _ => 0xFFF0
  | .unrecognised203F _ _ => 0xFFE0
  | .unrecognised407F _ _ => 0xFFC0
  | .unrecognised80FF _ _ => 0xFF80
  | _ => 0xFFFF

/-- The `match` of a row of opcode_table.json (R89). -/
def Instr.rowMatch : Instr → Nat
  | .add _ => 0x0000
  | .subtract _ => 0x0001
  | .divide _ => 0x0002
  | .multiply _ => 0x0003
  | .allocate _ => 0x0004
  | .assign _ => 0x0005
  | .interrupt _ => 0x0006
  | .compare _ => 0x0007
  | .move _ => 0x0008
  | .addr _ => 0x0009
  | .label _ => 0x000A
  | .goto _ => 0x000B
  | .clear _ => 0x000C
  | .compareEqual _ => 0x000700
  | .compareNotEqual _ => 0x000701
  | .compareLessThan _ => 0x000702
  | .compareGreaterThan _ => 0x000703
  | .unrecognised0D _ => 0x000D
  | .unrecognised0E0F _ _ => 0x000E
  | .unrecognised101F _ _ => 0x0010
  | .unrecognised203F _ _ => 0x0020
  | .unrecognised407F _ _ => 0x0040
  | .unrecognised80FF _ _ => 0x0080

/-- The number R89 reads from leading frame bytes: the first stream byte in the highest place. -/
def frameNumber : List Byte → Nat
  | [] => 0
  | x :: xs => x.toNat * 256 ^ xs.length + frameNumber xs

/-- The `n` bytes of a table word, the first stream byte in the highest place (R89; entry 15). -/
def wordBytes : Nat → Nat → List Byte
  | 0, _ => []
  | n + 1, w => BitVec.ofNat 8 (w >>> (8 * n)) :: wordBytes n w

/-- A table word as a frame: its bytes, no further parameter byte, and the frame end byte
(R71; entry 15). -/
def tableFrame (nbits w : Nat) : List Byte := wordBytes (nbits / 8) w ++ [eof]

/-- The instruction the decoder reads from a table word of `nbits` bits (entry 15). -/
def decodeTableWord (nbits w : Nat) : Option Instr :=
  match decode (tableFrame nbits w) with
  | .ok (i, []) => some i
  | _ => none

end Sys2Proof
end

