-- ==== Sys2Proof/Machine/Framer.lean ====
section
/-! DEFINITION. The framer: `encode` and `decode` as functions, and the ENC and byte-serial DEC
transactions over the state (45_framer.md R185 to R211). Nothing here calls the facade or reads the
halt latch (R132, R185, R203; entry 16). -/

namespace Sys2Proof.Machine

/-- `encode1(I)` (R186, R188). No parameter byte is checked or escaped (R189). -/
def encodeOne (v : InstrValue) : Except FramerFault (List Byte) :=
  match tagOf v.op with
  | none => .error .encodeNoEntry
  | some tag => .ok (Frame.bytes ⟨opbyte tag, v.params⟩)

/-- `encode(P)`: the frames one after another, or the fault and no byte at all (R187, R190). -/
def encodeProgram : Program → Except FramerFault (List Byte)
  | [] => .ok []
  | v :: vs =>
    match encodeOne v with
    | .error e => .error e
    | .ok bytes =>
      match encodeProgram vs with
      | .error e => .error e
      | .ok more => .ok (bytes ++ more)

/-- Whether one more byte would exceed PARAM_MAX (R208; entry 5). -/
def paramsFull (paramMax : Option Nat) (params : List Byte) : Bool :=
  match paramMax with
  | none => false
  | some m => decide (params.length = m)

/-- The instruction value of the open instruction (R29). -/
def openInstr (f : Framer) : InstrValue := ⟨(opbyte f.curOp).toNat, f.curParams⟩

/-- One byte in the decode state: the transition table of R191 (R192 to R198, R208). -/
def byteStep (paramMax : Option Nat) (f : Framer) (x : Byte) : Except FramerFault Framer :=
  match f.ds with
  | .idle =>
    if x = sof then .ok { f with ds := .readingOpcode }
    else if x = eof then .error .decodeStrayEnd
    else .error .decodeStrayByte
  | .readingOpcode =>
    match optag x with
    | none => .error .decodeUnknownOpcode
    | some tag => .ok { f with ds := .accumulating, curOp := tag, curParams := [] }
  | .accumulating =>
    if x = eof then .ok { f with ds := .idle, out := f.out ++ [openInstr f] }
    else if paramsFull paramMax f.curParams then .error .paramOverflow
    else .ok { f with curParams := f.curParams ++ [x] }

/-- End of stream: the program, with an open instruction dropped silently (R199, R200, R201). -/
def finishStream (f : Framer) : Except FramerFault Program :=
  match f.ds with
  | .idle => .ok f.out
  | .readingOpcode => .error .decodeTruncatedOpcode
  | .accumulating => .ok f.out

/-- The bytes of a stream one after another, up to the first fault (R191, R202). -/
def runBytes (paramMax : Option Nat) (f : Framer) : List Byte → Except FramerFault Framer
  | [] => .ok f
  | x :: xs =>
    match byteStep paramMax f x with
    | .error e => .error e
    | .ok g => runBytes paramMax g xs

/-- `decode(s)` (R191, R202). -/
def decodeStream (paramMax : Option Nat) (stream : List Byte) : Except FramerFault Program :=
  match runBytes paramMax .reset stream with
  | .error e => .error e
  | .ok f => finishStream f

/-- The output of a DEC transaction (R202). -/
def decResponse : Except FramerFault Program → Response
  | .ok program => .decOk program
  | .error reason => .decFault reason

/-- The output of an ENC transaction (R190). -/
def encResponse : Except FramerFault (List Byte) → Response
  | .ok stream => .encOk stream
  | .error reason => .encFault reason

/-- A DEC transaction begins, from the values of R191 whatever the previous one left. -/
def decBegin (stream : List Byte) (s : State) : State :=
  { s with framer := .reset, decIn := some stream }

/-- A DEC transaction ends with its output, and the framer is ready for the next one
(R202, R228; entry 16). -/
def decEnd (outcome : Except FramerFault Program) (s : State) : State :=
  respond (decResponse outcome) { s with framer := .reset, decIn := none }

/-- A DEC transaction takes one byte, or ends at once with a fault (R191, R202). -/
def decByte (x : Byte) (rest : List Byte) (s : State) : State :=
  match byteStep s.cfg.paramMax s.framer x with
  | .ok f => { s with framer := f, decIn := some rest }
  | .error e => decEnd (.error e) s

/-- A DEC transaction meets the end of its stream (R199 to R201). -/
def decFinish (s : State) : State := decEnd (finishStream s.framer) s

/-- The ENC transaction, one step (R190, R30). -/
def encTransaction (program : Program) (s : State) : State :=
  respond (encResponse (encodeProgram (programAtPort s.cfg program))) s

end Sys2Proof.Machine
end

