-- ==== Sys2Proof/Machine/Ports.lean ====
section
/-! DEFINITION. What the block does next: a reset, waiting for or taking the facade's answer to the
interrupt call in progress (43_interrupt_system.md R151), a byte of the DEC transaction in
progress, or the first request on a slave port that has a step (00_scope.md R9;
41_dispatch_reserved.md R132; 20_memory.md R54, R57; 70_reset_and_hazards.md R260, R261), and
presenting an instruction value on EXEC. -/

namespace Sys2Proof.Machine

/-- What one step does. -/
inductive Work where
  | reset
  | intAnswer (code : Byte)
  | intWait
  | decByte (x : Byte) (rest : List Byte)
  | decFinish
  | waiting
  | stuck
  | request (r : Request) (rest : List Request)
  deriving DecidableEq, Repr

/-- The first request that has a step, and the requests that stay presented. Once the halt latch is
set a request on a dispatcher port has none and is passed over, so that it never stands in the way
of DEC and ENC (R132, R185; entry 2). -/
def nextRequest (halted : Bool) : List Request → Option (Request × List Request)
  | [] => none
  | r :: rest =>
    if halted && r.isDispatcher then
      match nextRequest halted rest with
      | none => none
      | some (q, left) => some (q, r :: left)
    else some (r, rest)

/-- Reset comes first (R260); a transaction in progress is completed before the next request is
accepted (R54), and an interrupt call the facade does not answer is never completed and lets none
begin (R151; entry 11); with nothing presented the block waits (R261; entry 23), and with nothing but
dispatcher requests presented to a halted block it is stuck (R132; entry 12). -/
def nextWork (s : State) : Work :=
  if s.resetLine then .reset
  else
    match s.awaiting with
    | some code => if s.facadeReady then .intAnswer code else .intWait
    | none =>
      match s.decIn with
      | some (x :: rest) => .decByte x rest
      | some [] => .decFinish
      | none =>
        match nextRequest s.fac.halted s.pending with
        | some (r, rest) => .request r rest
        | none => if s.pending.isEmpty then .waiting else .stuck

/-- A request is accepted, and the others stay presented. -/
def acceptRequest (rest : List Request) (s : State) : State := { s with pending := rest }

/-- The Kernel presents an instruction value on EXEC, before every other request, with no
transaction in progress (entry 15). -/
def presentValue (v : InstrValue) (s : State) : State :=
  { s with resetLine := false, decIn := none, awaiting := none, pending := .exec v :: s.pending }

/-- A table word as the instruction value presented; a word that is no frame presents nothing
(entry 15). -/
def presentWord (nbits w : Nat) (s : State) : State :=
  match decodeFrame (tableFrame nbits w) with
  | .ok (f, _) => presentValue ⟨f.op.toNat, f.params⟩ s
  | .error _ => s

end Sys2Proof.Machine
end

