-- ==== Sys2Proof/Machine/Serve.lean ====
section
/-! DEFINITION. Serving an accepted request: `execute` of an instruction value
(41_dispatch_reserved.md R120, R121, R130), the two dispatcher commands, DEC and ENC
(00_scope.md R9). -/

namespace Sys2Proof.Machine

/-- `execute(I)` (R120, R121): the instruction of the value's row, and UnknownOpcode for the numbers
that have no row, "anything else" (R130; entry 3). -/
def execute (v : InstrValue) (s : State) : Host.Outcome State Fault Refusal :=
  match Instr.ofValue v with
  | some i => exec i s
  | none => unknownOpcode s

/-- A request served, its opcode numbers and codes as the ports carry them (R9, R25, R155). -/
def serve (r : Request) (s : State) : Host.Outcome State Fault Refusal :=
  match r with
  | .exec v => execute (valueAtPort s.cfg v) s
  | .reportFatal code => reportFatal (codeAtPort s.cfg code) s
  | .halt => haltCommand s
  | .dec stream => .next (decBegin stream s)
  | .enc program => .next (encTransaction program s)

end Sys2Proof.Machine
end

