-- ==== Sys2Proof/Machine/Step.lean ====
section
/-! DEFINITION. One step of the machine: one transaction, one byte of a DEC transaction, or waiting
(00_scope.md R4; 43_interrupt_system.md R151; 70_reset_and_hazards.md R261, R272). -/

namespace Sys2Proof.Machine

/-- One step. -/
def step (s : State) : Host.Outcome State Fault Refusal :=
  match nextWork s with
  | .reset => .next (resetBlock s)
  | .intAnswer code => .next (answerInterrupt code s)
  | .intWait => .next s
  | .decByte x rest => .next (decByte x rest s)
  | .decFinish => .next (decFinish s)
  | .waiting => .next s
  | .stuck => .fault .dispatcherHalted
  | .request r rest => serve r (acceptRequest rest s)

/-- The instruction of a table word presented on EXEC, so that the next step runs it (entry 15). -/
def State.withFetchWord (s : State) (nbits w : Nat) : State := presentWord nbits w s

end Sys2Proof.Machine
end

