-- ==== Sys2Proof/Machine/Harness.lean ====
section
/-! DEFINITION. The spec's reference harness `run` (70_reset_and_hazards.md R275): the smallest
Kernel, no part of the block (entry 22). It works the block's ports by its steps only. -/

namespace Sys2Proof.Machine

/-- How a harness run ends (R275). `waiting` is for an `execute` that the facade keeps from returning
(R151). `stuck` is for a dispatcher call without a step, which the harness never makes (R132). -/
inductive RunEnd where
  | loadFault (reason : FramerFault)
  | done (ip : Nat) (results : List (Option (List Byte))) (fac : Fac)
  | waiting (ip : Nat) (results : List (Option (List Byte))) (fac : Fac)
  | stuck
  deriving DecidableEq, Repr

/-- The output of an EXEC transaction: the last one delivered. -/
def lastResult (s : State) : Option (List Byte) :=
  match s.responses.getLast? with
  | some (.exec r) => r
  | _ => none

/-- The `while` loop of R275 from a program's tail on. -/
def runProgram (ip : Nat) (results : List (Option (List Byte))) (s : State) : Program → RunEnd
  | [] => .done ip results s.fac
  | v :: vs =>
    if s.fac.halted then .done ip results s.fac
    else
      match step (presentValue v s) with
      | .next t =>
        if t.awaiting.isSome then .waiting ip results t.fac
        else runProgram (ip + 1) (results ++ [lastResult t]) t vs
      | _ => .stuck

/-- `run(s)` on the block of `s₀`: reset, decode, then execute in order until the end of the
program or a halt (R275). -/
def runHarness (s₀ : State) (stream : List Byte) : RunEnd :=
  match decodeStream s₀.cfg.paramMax stream with
  | .error reason => .loadFault reason
  | .ok program => runProgram 0 [] (resetBlock s₀) program

end Sys2Proof.Machine
end

