-- ==== Sys2Proof/Safety.lean ====
section
/-! DEFINITION. The invariants and the shapes that claims about the machine speak of. -/

namespace Sys2Proof.Machine

/-- The shape of `FAC.log`: interrupt calls, then at most one halt call as the last event, with at
most one error call, directly before a halt(1) (R57, R62, R226). -/
def logShape : List FacEvent → Bool
  | [] => true
  | .interrupt _ _ :: rest => logShape rest
  | [.halt _] => true
  | [.error _ _, .halt k] => decide (k = 1)
  | _ => false

/-- The facade's record is consistent: the log has its shape, and a halt call in it has set the
latch and the exit code (R31, R226). -/
def FacOk (f : Fac) : Prop :=
  logShape f.log = true ∧ ∀ k, FacEvent.halt k ∈ f.log → f.halted = true ∧ f.exitCode = k

/-- Every code the facade has been given, and its exit code, is a signed integer of CODEW bits
(R31, R155). -/
def CodesOk (cfg : Config) (f : Fac) : Prop :=
  (∀ c k, FacEvent.error c k ∈ f.log → cfg.CodeFits k) ∧
  (∀ k, FacEvent.halt k ∈ f.log → cfg.CodeFits k) ∧ cfg.CodeFits f.exitCode

/-- An instruction value that the framer's decoder may have built: a tag of the table, no parameter
byte 255, within PARAM_MAX (R195, R208, R209). -/
abbrev Loadable (paramMax : Option Nat) (v : InstrValue) : Prop :=
  (tagOf v.op).isSome = true ∧ Storable v ∧ Fits paramMax v.params

/-- The framer's decode state is consistent (R20, R29, R195, R208): nothing is open or closed
outside a DEC transaction, and what is open or closed inside one is loadable. -/
def FramerOk (s : State) : Prop :=
  (s.decIn = none → s.framer.ds = .idle ∧ s.framer.out = []) ∧
  (s.framer.ds = .accumulating →
    eof ∉ s.framer.curParams ∧ Fits s.cfg.paramMax s.framer.curParams) ∧
  (∀ v ∈ s.framer.out, Loadable s.cfg.paramMax v) ∧
  (∀ program, Response.decOk program ∈ s.responses → ∀ v ∈ program, Loadable s.cfg.paramMax v)

/-- An interrupt call in progress is the one transaction in progress, begun while the latch was clear
(R54, R132). -/
def WaitOk (s : State) : Prop :=
  s.awaiting ≠ none → s.fac.halted = false ∧ s.decIn = none

/-- How many transactions have been presented, are in progress, or have returned. -/
def transactionCount (s : State) : Nat :=
  s.pending.length + (if s.decIn.isSome then 1 else 0) +
    (if s.awaiting.isSome then 1 else 0) + s.responses.length

/-- The next step accepts the request `r`, and the requests `rest` stay presented. -/
abbrev Accepts (s : State) (r : Request) (rest : List Request) : Prop :=
  s.resetLine = false ∧ s.awaiting = none ∧ s.decIn = none ∧
    nextRequest s.fac.halted s.pending = some (r, rest)

/-- Whether an output is one that a request accepted in one step ends with (R9). A DEC request is
answered later, by `AnswersDec`. -/
def Answers : Request → Response → Prop
  | .exec _, .exec _ => True
  | .reportFatal _, .reportFatal => True
  | .halt, .halt => True
  | .enc _, .encOk _ => True
  | .enc _, .encFault _ => True
  | _, _ => False

/-- Whether an output is that of a DEC transaction (R202). -/
def AnswersDec : Response → Prop
  | .decOk _ => True
  | .decFault _ => True
  | _ => False

/-- The state after an EXEC transaction that returned `Some(r)` and made no facade call (R133 a):
nothing else has changed. -/
def completed (s : State) (r : List Byte) : State :=
  { s with responses := s.responses ++ [.exec (some r)] }

/-- The state after an EXEC transaction that faulted with the pair `(c, k)` (R133 c, R222): one
error call, one halt(1) call, the result `None`, and nothing else has changed. -/
def trapped (s : State) (c : Component) (k : Code) : State :=
  { s with
    fac := { log := s.fac.log ++ [.error c k, .halt 1], halted := true, exitCode := 1 }
    responses := s.responses ++ [.exec none] }

/-- The state after an EXEC transaction that forwarded one interrupt code and returned the facade's
answer (R133 b, R150, R151): one interrupt call, the latch as the facade leaves it, and nothing else
has changed. -/
def answered (s : State) (code : Byte) (r : List Byte) (h : Bool) : State :=
  { s with
    fac := { log := s.fac.log ++ [.interrupt code r], halted := h, exitCode := s.fac.exitCode }
    responses := s.responses ++ [.exec (some r)] }

/-- The first `n` instructions of a program executed one after another by the block's own steps, from
the reset block on: `trace k` is the state before instruction `k`, taken with the latch clear, and
`results` are the outputs delivered (R275). -/
def HarnessTrace (s₀ : State) (program : Program) (n : Nat) (results : List (Option (List Byte)))
    (trace : Nat → State) : Prop :=
  trace 0 = resetBlock s₀ ∧ results.length = n ∧
  ∀ (k : Nat) (v : InstrValue), k < n → program[k]? = some v →
    (trace k).fac.halted = false ∧ step (presentValue v (trace k)) = .next (trace (k + 1)) ∧
    ∃ r, results[k]? = some r ∧ (trace (k + 1)).responses = (trace k).responses ++ [.exec r]

/-- A frame that was opened and not closed, as it stands at the end of a stream (R199). -/
def OpenFrame (paramMax : Option Nat) (tail : List Byte) : Prop :=
  ∃ (op : Byte) (params : List Byte), tail = sof :: op :: params ∧
    Loadable paramMax ⟨op.toNat, params⟩

/-- The frames of a program one after another, each `0x00 opcodeByte paramByte* 0xFF` (R70, R71). -/
def frames (program : Program) : List Byte := (program.map fun v => v.toFrame.bytes).flatten

end Sys2Proof.Machine
end

