-- ==== Sys2Proof/Certificates/Slice0/Obligations.lean ====
section
/-! DEFINITION. The statements for the provers. Every one is about every state, hence about every
setting of the open parameters in `cfg` (R5) and every facade. -/

open Sys2Proof Sys2Proof.Machine

/-! ## Running an instruction, and the two encodings -/

/-- R120, R121: an EXEC request for the instruction value of a well-formed instruction runs exactly
that instruction, on the state with the request accepted; every number below 256 is that of one
well-formed instruction. That a number from 256 on, which only an OPW above 8 can carry, is an
unrecognised one is the model's reading (DEDUCED, entry 3), and that a port carries the low OPW bits
of a number is its choice (DESIGN CHOICE, entry 3). -/
def Obligations.StepRunsTheDecodedInstruction : Prop :=
  (∀ (s : State) (i : Instr) (rest : List Request), WellFormed i →
    i.toValue.op < 2 ^ s.cfg.opw → Accepts s (.exec i.toValue) rest →
    step s = exec i { s with pending := rest }) ∧
  (∀ (s : State) (v w : InstrValue) (rest : List Request), Accepts s (.exec v) rest →
    w = valueAtPort s.cfg v →
    (w.op < 256 → ∃ i : Instr, WellFormed i ∧ i.toValue = w ∧
      step s = exec i { s with pending := rest }) ∧
    (256 ≤ w.op → step s = .next (trapped { s with pending := rest } .cpu 0)))

/-- R71, R72, R75, R89: frames written out from the opcode table are read by the model's reader of
that table as the rows they belong to. The reader is not the DEC port: that the frame of an
unrecognised row (the last clause) decodes at all is the model's (DESIGN CHOICE, entry 18), and the
spec's own decode faults on it (R193). -/
def Obligations.TableFramesDecodeToTheirRows : Prop :=
  decode [0x00, 0x00, 0x01, 0xFF] = .ok (.add [1], []) ∧
  decode [0x00, 0x02, 0x07, 0xFE, 0x02, 0xFF] = .ok (.divide [7, 254, 2], []) ∧
  decode [0x00, 0x03, 0x00, 0xFF, 0x00] = .ok (.multiply [0], [0x00]) ∧
  decode [0x00, 0x06, 0x09, 0xFF] = .ok (.interrupt [9], []) ∧
  decode [0x00, 0x07, 0x02, 0x00, 0x00, 0xFF] = .ok (.compareLessThan [0, 0], []) ∧
  decode [0x00, 0x07, 0x04, 0x00, 0x00, 0xFF] = .ok (.compare [4, 0, 0], []) ∧
  decode [0x00, 0x0B, 0x01, 0xFF] = .ok (.goto [1], []) ∧
  decode [0x00, 0xC8, 0x02, 0xFF] = .ok (.unrecognised80FF 0x48 [2], [])

/-- R89: the frame of a well-formed instruction of any of the 23 rows decodes back to it and to the
bytes that follow it, for every operand without the frame end byte (R84 gives that byte no encoding).
This is the reader of the opcode table, not the DEC port: that the frames of the six unrecognised
rows decode is the model's (entry 18), and DEC and ENC fault on them (R188, R193). -/
def Obligations.EncodedFrameDecodesBack : Prop :=
  ∀ (i : Instr) (rest : List Byte), WellFormed i → Storable i.toValue →
    decode (encode i ++ rest) = .ok (i, rest)

/-- R89, the other direction: what the reader of the opcode table reads is well formed, storable, and
its frame is the bytes that were read, so no bit of a frame is dropped. For the opcode bytes 13 to
255 this is the model's table reader (entry 18), not the DEC port, which faults on them (R193). -/
def Obligations.DecodedFrameEncodesBack : Prop :=
  ∀ (bytes rest : List Byte) (i : Instr), decode bytes = .ok (i, rest) →
    WellFormed i ∧ Storable i.toValue ∧ bytes = encode i ++ rest

/-- R73, R121: instruction values with a number below 256 and well-formed instructions correspond
one to one, parameter bytes 255 included (R265), and a number above has no row (entry 3). -/
def Obligations.PortValuesCorrespondToRows : Prop :=
  (∀ v : InstrValue, v.op < 256 →
    ∃ i : Instr, Instr.ofValue v = some i ∧ WellFormed i ∧ i.toValue = v) ∧
  (∀ i : Instr, WellFormed i → Instr.ofValue i.toValue = some i) ∧
  (∀ v : InstrValue, 256 ≤ v.op → Instr.ofValue v = none ∧ ∀ i : Instr, i.toValue ≠ v)

/-- R89: no two of the opcode rows and the unrecognised rows overlap, and together they cover every
value of the opcode byte. -/
def Obligations.OpcodeRowsPartitionTheOpcodeByte : Prop :=
  (∀ (i j : Instr) (n : Nat), i.matchBytes = 2 → j.matchBytes = 2 → n < 65536 →
    n &&& i.rowMask = i.rowMatch → n &&& j.rowMask = j.rowMatch → i.rowMatch = j.rowMatch) ∧
  (∀ op : Byte, ∃ i : Instr, i.matchBytes = 2 ∧ frameNumber [sof, op] &&& i.rowMask = i.rowMatch)

/-- R121: `execute` of an instruction value is what the dispatch table says for its number: the
handler of R121 gets the whole parameter sequence, and the four sub-operation rows together with the
row `Compare` are the one handler of number 7. R121 speaks of the numbers up to 255: that those from
256 on take UnknownOpcode too is the model's reading (DEDUCED, entry 3). That a call while the latch
is set stops with the
fault `dispatcherHalted` is the model's name for no step (R132; entry 12). -/
def Obligations.DispatchByOpcodeNumber : Prop :=
  ∀ (op : Nat) (params : List Byte) (s : State),
    (op = 0 → execute ⟨op, params⟩ s = exec (.add params) s) ∧
    (op = 1 → execute ⟨op, params⟩ s = exec (.subtract params) s) ∧
    (op = 2 → execute ⟨op, params⟩ s = exec (.divide params) s) ∧
    (op = 3 → execute ⟨op, params⟩ s = exec (.multiply params) s) ∧
    (op = 6 → execute ⟨op, params⟩ s = exec (.interrupt params) s) ∧
    (op = 7 → execute ⟨op, params⟩ s = exec (.compare params) s) ∧
    (s.fac.halted = false → op = 4 ∨ op = 5 ∨ (8 ≤ op ∧ op ≤ 12) →
      execute ⟨op, params⟩ s = .next (trapped s .kernel 3)) ∧
    (s.fac.halted = false → 13 ≤ op → execute ⟨op, params⟩ s = .next (trapped s .cpu 0)) ∧
    (s.fac.halted = true → execute ⟨op, params⟩ s = .fault .dispatcherHalted)

/-! ## The operand unpacker -/

/-- R103: four bytes are read little-endian and signed, negative exactly when the last byte is at
least 128; and `le32` of R7 is the inverse. -/
def Obligations.OperandsAreLittleEndianSigned : Prop :=
  (∀ b0 b1 b2 b3 : Byte,
    let u : Int := b0.toNat + 256 * b1.toNat + 65536 * b2.toNat + 16777216 * b3.toNat
    (int32Le [b0, b1, b2, b3]).toInt = (if u < 2147483648 then u else u - 4294967296) ∧
    ((int32Le [b0, b1, b2, b3]).toInt < 0 ↔ 128 ≤ b3.toNat) ∧
    le32 (int32Le [b0, b1, b2, b3]) = [b0, b1, b2, b3]) ∧
  (∀ v : Word, int32Le (le32 v) = v)

/-- R105: without a separator every byte is operand A and operand B is 0. -/
def Obligations.MissingSeparatorMakesOperandBZero : Prop :=
  ∀ s : List Byte, sep ∉ s → decodeTwo s = (int32Le (norm4 s), 0#32)

/-- R101, R107: the first separator splits wherever it stands, later separators are data, and only
the first four bytes of either segment count. -/
def Obligations.OnlyFirstFourBytesOfASegmentCount : Prop :=
  (∀ A B : List Byte, sep ∉ A →
    decodeTwo (A ++ sep :: B) = (int32Le (norm4 A), int32Le (norm4 B)) ∧
    decodeTwo (A ++ sep :: B) = decodeTwo (A.take 4 ++ sep :: B.take 4)) ∧
  (∀ A : List Byte, sep ∉ A → decodeTwo A = decodeTwo (A.take 4))

/-- R108: the packing law where no byte of `le32 a` is the separator, and what happens where one is,
`j` being the first such index. -/
def Obligations.PackingLawAndItsFailure : Prop :=
  ∀ a b : Word,
    (sep ∉ le32 a → decodeTwo (pack a b) = (a, b)) ∧
    (∀ j : Nat, (le32 a)[j]? = some sep → (∀ k < j, (le32 a)[k]? ≠ some sep) →
      decodeTwo (pack a b) =
        (int32Le (norm4 ((le32 a).take j)),
         int32Le (norm4 ((le32 a).drop (j + 1) ++ [sep] ++ le32 b))))

/-- R109, R266: the values operand A can take are exactly those whose four bytes hold no separator;
operand B can take every value. -/
def Obligations.ExpressibleOperandValues : Prop :=
  (∀ a : Word, (∃ s : List Byte, (decodeTwo s).1 = a) ↔ sep ∉ le32 a) ∧
  (∀ b : Word, ∃ s : List Byte, (decodeTwo s).2 = b)

/-! ## Arithmetic -/

/-- R166, R170, R171: `Add` completes on every parameter sequence with the exact sum reduced modulo
2^32 into the signed range, as four bytes; on a canonical packing the operands are `a` and `b`. -/
def Obligations.AddReturnsWrappedSum : Prop :=
  ∀ s : State, s.fac.halted = false →
    (∀ params : List Byte, ∃ v : Word,
      exec (.add params) s = .next (completed s (le32 v)) ∧
      v.toInt = ((decodeTwo params).1.toInt + (decodeTwo params).2.toInt).bmod 4294967296) ∧
    (∀ a b : Word, sep ∉ le32 a →
      exec (.add (pack a b)) s = .next (completed s (le32 (a + b))))

/-- R167, R170, R171: `Subtract`, segment A the minuend. -/
def Obligations.SubtractReturnsWrappedDifference : Prop :=
  ∀ s : State, s.fac.halted = false →
    (∀ params : List Byte, ∃ v : Word,
      exec (.subtract params) s = .next (completed s (le32 v)) ∧
      v.toInt = ((decodeTwo params).1.toInt - (decodeTwo params).2.toInt).bmod 4294967296) ∧
    (∀ a b : Word, sep ∉ le32 a →
      exec (.subtract (pack a b)) s = .next (completed s (le32 (a - b))))

/-- R168, R170, R171: `Multiply`, the low 32 bits of the exact product. -/
def Obligations.MultiplyReturnsWrappedProduct : Prop :=
  ∀ s : State, s.fac.halted = false →
    (∀ params : List Byte, ∃ v : Word,
      exec (.multiply params) s = .next (completed s (le32 v)) ∧
      v.toInt = ((decodeTwo params).1.toInt * (decodeTwo params).2.toInt).bmod 4294967296) ∧
    (∀ a b : Word, sep ∉ le32 a →
      exec (.multiply (pack a b)) s = .next (completed s (le32 (a * b))))

/-- R169, R173, R175: where the divisor is not 0 and the operands are not the overflow pair,
`Divide` completes; an exact quotient is returned under every rounding, and an inexact one leaves a
remainder smaller than the divisor, with the sign of the dividend under DIV_ROUND = toward zero and
of the divisor under floor, and is a free value under the model's third setting (entry 8). -/
def Obligations.DivideReturnsRoundedQuotient : Prop :=
  ∀ (params : List Byte) (s : State) (a b : Int), s.fac.halted = false →
    a = (decodeTwo params).1.toInt → b = (decodeTwo params).2.toInt →
    b ≠ 0 → ¬ (a = -2147483648 ∧ b = -1) →
    ∃ (v : Word) (r : Int), exec (.divide params) s = .next (completed s (le32 v)) ∧
      a = v.toInt * b + r ∧ (b ∣ a → r = 0) ∧
      (s.cfg.divRound = .towardZero → |r| < |b| ∧ (0 ≤ a → 0 ≤ r) ∧ (a ≤ 0 → r ≤ 0)) ∧
      (s.cfg.divRound = .floor → |r| < |b| ∧ (0 < b → 0 ≤ r) ∧ (b < 0 → r ≤ 0)) ∧
      (s.cfg.divRound = .unconstrained → ¬ b ∣ a → v = wrap32 (Config.inexactQuotient a b))

/-- R172: a zero divisor is the fault DivideByZero, whose pair is (CPU, DIVZ_CODE), 6 by default;
a parameter sequence without a separator divides by zero. -/
def Obligations.DivideByZeroTraps : Prop :=
  Config.default.divzCode = 6 ∧
  ∀ (params : List Byte) (s : State), s.fac.halted = false →
    ((decodeTwo params).2.toInt = 0 ∨ sep ∉ params) →
    exec (.divide params) s = .next (trapped s .cpu s.cfg.divzCode)

/-- R174: the overflow pair wraps under DIV_OVF = wrap, which is the default, and is the fault
DivideOverflow with the pair of R172 under DIV_OVF = fault. -/
def Obligations.DivideOverflowPairWrapsOrTraps : Prop :=
  Config.default.divOvf = .wrap ∧
  ∀ (params : List Byte) (s : State), s.fac.halted = false →
    (decodeTwo params).1.toInt = -2147483648 → (decodeTwo params).2.toInt = -1 →
    (s.cfg.divOvf = .wrap →
      exec (.divide params) s = .next (completed s (le32 (BitVec.intMin 32)))) ∧
    (s.cfg.divOvf = .fault →
      exec (.divide params) s = .next (trapped s .cpu s.cfg.divzCode))

/-- R176: the same operand twice, for every operand expressible in segment A, under every setting of
the open parameters. -/
def Obligations.SameOperandTwice : Prop :=
  ∀ (a : Word) (s : State), s.fac.halted = false → sep ∉ le32 a →
    exec (.add (pack a a)) s = .next (completed s (le32 (2 * a))) ∧
    exec (.subtract (pack a a)) s = .next (completed s (le32 0#32)) ∧
    exec (.multiply (pack a a)) s = .next (completed s (le32 (a * a))) ∧
    (a ≠ 0#32 → exec (.divide (pack a a)) s = .next (completed s (le32 1#32))) ∧
    (a = 0#32 → exec (.divide (pack a a)) s = .next (trapped s .cpu s.cfg.divzCode))

/-! ## Compare -/

/-- R141 to R144, R147: each sub-operation row completes with CMP_TRUE exactly when its signed
comparison holds; a frame too short for `Compare` is CompareArity (R140). -/
def Obligations.CompareSubOperationResults : Prop :=
  ∀ (buffer : List Byte) (s : State) (a b : Int), s.fac.halted = false →
    a = (decodeTwo buffer).1.toInt → b = (decodeTwo buffer).2.toInt →
    (2 ≤ buffer.length →
      exec (.compareEqual buffer) s =
        .next (completed s [if a = b then s.cfg.cmpTrue else s.cfg.cmpFalse]) ∧
      exec (.compareNotEqual buffer) s =
        .next (completed s [if a = b then s.cfg.cmpFalse else s.cfg.cmpTrue]) ∧
      exec (.compareLessThan buffer) s =
        .next (completed s [if a < b then s.cfg.cmpTrue else s.cfg.cmpFalse]) ∧
      exec (.compareGreaterThan buffer) s =
        .next (completed s [if b < a then s.cfg.cmpTrue else s.cfg.cmpFalse])) ∧
    (buffer.length < 2 →
      exec (.compareEqual buffer) s = .next (trapped s .cpu 4) ∧
      exec (.compareNotEqual buffer) s = .next (trapped s .cpu 4) ∧
      exec (.compareLessThan buffer) s = .next (trapped s .cpu 4) ∧
      exec (.compareGreaterThan buffer) s = .next (trapped s .cpu 4))

/-- R140, R146: `Compare` on a whole parameter sequence: fewer than three bytes is CompareArity
whatever the first byte is, then a selector above 3 is CompareSelector, and with a legal selector it
completes with the comparison the selector names. -/
def Obligations.CompareChecksThenCompares : Prop :=
  ∀ (params : List Byte) (s : State), s.fac.halted = false →
    (params.length < 3 → exec (.compare params) s = .next (trapped s .cpu 4)) ∧
    (∀ (sel : Byte) (buffer : List Byte) (a b : Int), params = sel :: buffer →
      2 ≤ buffer.length →
      a = (decodeTwo buffer).1.toInt → b = (decodeTwo buffer).2.toInt →
      (4 ≤ sel.toNat → exec (.compare params) s = .next (trapped s .cpu 5)) ∧
      (sel.toNat = 0 → exec (.compare params) s =
        .next (completed s [if a = b then s.cfg.cmpTrue else s.cfg.cmpFalse])) ∧
      (sel.toNat = 1 → exec (.compare params) s =
        .next (completed s [if a = b then s.cfg.cmpFalse else s.cfg.cmpTrue])) ∧
      (sel.toNat = 2 → exec (.compare params) s =
        .next (completed s [if a < b then s.cfg.cmpTrue else s.cfg.cmpFalse])) ∧
      (sel.toNat = 3 → exec (.compare params) s =
        .next (completed s [if b < a then s.cfg.cmpTrue else s.cfg.cmpFalse])))

/-- R142, R144, R145: where the two result bytes are as R145 asks, NotEqual is the opposite of
Equal, and exactly one of Equal, LessThan and GreaterThan is true, on every buffer. -/
def Obligations.ComparisonsPartitionEveryBuffer : Prop :=
  ∀ (buffer : List Byte) (s : State) (T F : Host.Outcome State Fault Refusal),
    s.fac.halted = false → s.cfg.CmpOk → 2 ≤ buffer.length →
    T = .next (completed s [s.cfg.cmpTrue]) → F = .next (completed s [0#8]) →
    T ≠ F ∧
    ((exec (.compareEqual buffer) s = T ∧ exec (.compareNotEqual buffer) s = F) ∨
      (exec (.compareEqual buffer) s = F ∧ exec (.compareNotEqual buffer) s = T)) ∧
    ((exec (.compareEqual buffer) s = T ∧ exec (.compareLessThan buffer) s = F ∧
        exec (.compareGreaterThan buffer) s = F) ∨
      (exec (.compareEqual buffer) s = F ∧ exec (.compareLessThan buffer) s = T ∧
        exec (.compareGreaterThan buffer) s = F) ∨
      (exec (.compareEqual buffer) s = F ∧ exec (.compareLessThan buffer) s = F ∧
        exec (.compareGreaterThan buffer) s = T))

/-- R79, R87, R108 and property Q4: on a canonical packing whose operand A is expressible, the
sub-operations compare `a` and `b` themselves, as signed integers. -/
def Obligations.PackedOperandsCompareAsGiven : Prop :=
  ∀ (a b : Word) (s : State), s.fac.halted = false → sep ∉ le32 a →
    exec (.compareEqual (pack a b)) s =
      .next (completed s [if a = b then s.cfg.cmpTrue else s.cfg.cmpFalse]) ∧
    exec (.compareNotEqual (pack a b)) s =
      .next (completed s [if a = b then s.cfg.cmpFalse else s.cfg.cmpTrue]) ∧
    exec (.compareLessThan (pack a b)) s =
      .next (completed s [if a.slt b then s.cfg.cmpTrue else s.cfg.cmpFalse]) ∧
    exec (.compareGreaterThan (pack a b)) s =
      .next (completed s [if b.slt a then s.cfg.cmpTrue else s.cfg.cmpFalse])

/-! ## Interrupt, the kernel-tier opcodes, the unrecognised numbers, the two commands -/

/-- R150, R151: with exactly one parameter byte the facade is called once and its answer, whatever
it is, is the result verbatim, the latch being set if the facade says so, in the same step if the
facade answers at once and in the step in which it answers otherwise; with any other number of bytes
the fault is InterruptArity and the facade's handler is not called. When the facade answers is an
input of the model (entry 11). -/
def Obligations.InterruptForwardsOneByte : Prop :=
  (∀ (s : State) (code : Byte), s.fac.halted = false → s.facadeReady = true →
    exec (.interrupt [code]) s =
      .next (answered s code (Config.intOracle s.facade s.fac.log code).1
        (Config.intOracle s.facade s.fac.log code).2)) ∧
  (∀ (s : State) (code : Byte), s.fac.halted = false → s.facadeReady = false →
    exec (.interrupt [code]) s = .next { s with awaiting := some code }) ∧
  (∀ (s : State) (code : Byte), s.resetLine = false → s.fac.halted = false →
    s.awaiting = some code → s.facadeReady = true →
    step s =
      .next (answered { s with awaiting := none } code
        (Config.intOracle s.facade s.fac.log code).1
        (Config.intOracle s.facade s.fac.log code).2)) ∧
  (∀ (s : State) (params : List Byte), s.fac.halted = false → params.length ≠ 1 →
    exec (.interrupt params) s = .next (trapped s .cpu 1))

/-- R123 to R129, R131: each of the seven kernel-tier opcodes takes ReservedTier, (Kernel, 3), on
every parameter sequence. -/
def Obligations.KernelTierOpcodesTakeReservedTier : Prop :=
  ∀ (params : List Byte) (s : State), s.fac.halted = false →
    exec (.clear params) s = .next (trapped s .kernel 3) ∧
    exec (.label params) s = .next (trapped s .kernel 3) ∧
    exec (.goto params) s = .next (trapped s .kernel 3) ∧
    exec (.move params) s = .next (trapped s .kernel 3) ∧
    exec (.assign params) s = .next (trapped s .kernel 3) ∧
    exec (.addr params) s = .next (trapped s .kernel 3) ∧
    exec (.allocate params) s = .next (trapped s .kernel 3)

/-- R130: every number 13 to 255 takes UnknownOpcode, (CPU, 0), on every parameter sequence, in each
of the table's six blocks and for every such instruction value. That the numbers from 256 on, which
only an OPW above 8 can carry, take it too is the model's reading (DEDUCED, entry 3). -/
def Obligations.UnrecognisedNumbersTakeUnknownOpcode : Prop :=
  ∀ (params : List Byte) (s : State), s.fac.halted = false →
    exec (.unrecognised0D params) s = .next (trapped s .cpu 0) ∧
    (∀ low, exec (.unrecognised0E0F low params) s = .next (trapped s .cpu 0)) ∧
    (∀ low, exec (.unrecognised101F low params) s = .next (trapped s .cpu 0)) ∧
    (∀ low, exec (.unrecognised203F low params) s = .next (trapped s .cpu 0)) ∧
    (∀ low, exec (.unrecognised407F low params) s = .next (trapped s .cpu 0)) ∧
    (∀ low, exec (.unrecognised80FF low params) s = .next (trapped s .cpu 0)) ∧
    (∀ op : Nat, 13 ≤ op → execute ⟨op, params⟩ s = .next (trapped s .cpu 0))

/-- R152: REPORT_FATAL forwards every code, a signed integer of CODEW bits, as a `Kernel` error, then
halt(1). That the transaction leaves a marker among the outputs is the model's own record (entry 2).
An integer that CODEW bits do not hold cannot travel on the port; what the model does with one is
said in entry 6. -/
def Obligations.ReportFatalForwardsTheCode : Prop :=
  ∀ (s : State) (code : Code) (rest : List Request), s.cfg.CodeFits code →
    Accepts s (.reportFatal code) rest →
    step s = .next { s with
      pending := rest
      fac := { log := s.fac.log ++ [.error .kernel code, .halt 1], halted := true,
               exitCode := 1 }
      responses := s.responses ++ [.reportFatal] }

/-- R153: HALT makes the one halt call with HALT_EXIT_CODE and no error call. The marker among the
outputs is the model's own record (entry 2). -/
def Obligations.HaltCommandMakesOneCall : Prop :=
  ∀ (s : State) (rest : List Request), Accepts s .halt rest →
    step s = .next { s with
      pending := rest
      fac := { log := s.fac.log ++ [.halt s.cfg.haltExitCode], halted := true,
               exitCode := s.cfg.haltExitCode }
      responses := s.responses ++ [.halt] }

/-! ## The dispatcher as a whole -/

/-- While the latch is clear every instruction, on every operand, has a next state; nothing is
refused (R121, R222: a fault too is a next state). Where the facade does not answer, that of an
`Interrupt` with its one byte is the state in which its `execute` waits and has not returned (R151;
the form of it is entry 11). -/
def Obligations.EveryInstructionRunsWhileNotHalted : Prop :=
  ∀ (i : Instr) (s : State), (∃ t, exec i s = .next t) ↔ s.fac.halted = false

/-- R133: the facade calls and the output of one EXEC transaction, in total, and everything it
leaves unchanged. An `Interrupt` that the facade does not answer at once makes its one call and has
the pattern of R133 (b) from the step that takes the answer (R151; entry 11). -/
def Obligations.ExecMakesOneOfThreeCallPatterns : Prop :=
  (∀ (i : Instr) (s t : State), exec i s = .next t →
    (∃ r, i.opNumber.toNat ∈ [0, 1, 2, 3, 7] ∧ t = completed s r) ∨
    (∃ code r h, i = .interrupt [code] ∧ s.facadeReady = true ∧ t = answered s code r h) ∨
    (∃ c k, t = trapped s c k) ∨
    (∃ code, i = .interrupt [code] ∧ s.facadeReady = false ∧
      t = { s with awaiting := some code })) ∧
  (∀ (s t : State) (code : Byte), s.resetLine = false → s.awaiting = some code →
    step s = .next t →
    (s.facadeReady = true ∧ ∃ r h, t = answered { s with awaiting := none } code r h) ∨
    (s.facadeReady = false ∧ t = s))

/-- R132, R185, D25: once the latch is set no dispatcher transaction has a step, and the framer goes
on: a DEC or ENC request is accepted wherever it stands among dispatcher requests, which all stay
presented. The fault `dispatcherHalted` is the model's name for no step (entry 12). An interrupt call
in progress with the latch set is ruled out by `WaitOk`, which every step keeps. -/
def Obligations.HaltStopsTheDispatcherOnly : Prop :=
  ∀ s : State, WaitOk s → s.fac.halted = true →
    (∀ i : Instr, exec i s = .fault .dispatcherHalted) ∧
    (∀ v : InstrValue, execute v s = .fault .dispatcherHalted) ∧
    (∀ code : Code, reportFatal code s = .fault .dispatcherHalted) ∧
    haltCommand s = .fault .dispatcherHalted ∧
    (s.resetLine = false → s.decIn = none → s.pending ≠ [] →
      (∀ r ∈ s.pending, r.isDispatcher = true) → step s = .fault .dispatcherHalted) ∧
    (s.resetLine = false → s.decIn = none → (∃ r ∈ s.pending, r.isDispatcher = false) →
      ∃ r rest t, Accepts s r rest ∧ r.isDispatcher = false ∧ step s = .next t ∧ t.fac = s.fac ∧
        t.pending.filter Request.isDispatcher = s.pending.filter Request.isDispatcher) ∧
    (∀ stream, s.resetLine = false → s.decIn = some stream →
      ∃ t, step s = .next t ∧ t.fac = s.fac)

/-- R225, R260: the halt latch is sticky, nothing is written to the facade's record while it is set,
and only reset clears it. An interrupt call in progress with the latch set is ruled out by `WaitOk`,
which every step keeps. -/
def Obligations.OnlyResetClearsTheHaltLatch : Prop :=
  ∀ s t : State, WaitOk s → step s = .next t → s.fac.halted = true →
    (s.resetLine = false → t.fac = s.fac) ∧ (t.fac.halted = false → s.resetLine = true)

/-- R62, R226: every step keeps the facade's record consistent: at most one halt call, the block's
last event, set latch and exit code, an error call only directly before a halt(1). An interrupt call in
progress with the latch set is ruled out by `WaitOk`, which every step keeps. -/
def Obligations.EveryStepKeepsTheFacadeRecordConsistent : Prop :=
  ∀ s t : State, FacOk s.fac → WaitOk s → step s = .next t → FacOk t.fac

/-- R20, R195, R208, R209: every step keeps the framer consistent: nothing open or closed outside a
DEC transaction, and every instruction it holds or has ever delivered has a table tag, no parameter
byte 255, and at most PARAM_MAX parameters. That `DS` is Idle and `out` empty between transactions
after an Ok end too is the model's reading (DEDUCED, entry 16): R228 speaks of faults only, and R191
begins each transaction afresh. The list of what was delivered is the model's own (entry 2). -/
def Obligations.EveryStepKeepsTheFramerConsistent : Prop :=
  ∀ s t : State, FramerOk s → step s = .next t → FramerOk t

/-- The invariants hold right after reset, with the spec's default widths. The exit code 0 there is
the model's choice (entry 13). -/
def Obligations.ResetStateIsConsistent : Prop :=
  FacOk State.reset.fac ∧ WaitOk State.reset ∧ FramerOk State.reset ∧
  State.reset.cfg.WidthsOk ∧ CodesOk State.reset.cfg State.reset.fac

/-- The values R36 gives for reset; the values it leaves unspecified are not stated here. -/
def Obligations.ResetStateHasTheValuesGiven : Prop :=
  State.reset.framer.ds = .idle ∧ State.reset.framer.out = [] ∧
  State.reset.fac.halted = false ∧ State.reset.fac.log = []

/-- R260: a reset puts the framer and the facade's record at their reset values and aborts a DEC
transaction or an interrupt call in progress without output, whatever the state. That the waiting
requests and the outputs already delivered stay, and the values of `cur` and `FAC.exit_code`, are the
model's choice (entries 13 and 14). -/
def Obligations.ResetAbortsAndClears : Prop :=
  (∀ s : State, s.resetLine = true → step s = .next { s with
    framer := .reset, fac := .reset, decIn := none, awaiting := none, resetLine := false }) ∧
  step { State.reset with resetLine := true } = .next State.reset

/-- With nothing presented and nothing in progress a step answers the same state. That is the model's
choice (entry 23): R261 says that after reset the block waits for its first transaction, and the
model has it wait so in every state. -/
def Obligations.IdleBlockWaits : Prop :=
  ∀ s : State, s.resetLine = false → s.awaiting = none → s.decIn = none → s.pending = [] →
    step s = .next s

/-- R32: no step writes the open parameters, nor which facade is connected, nor the input that says
whether it answers (all are the model's own fields, entries 4 and 11). -/
def Obligations.NoStepWritesTheParameters : Prop :=
  ∀ s t : State, step s = .next t → t.cfg = s.cfg ∧ t.facade = s.facade ∧
    t.facadeReady = s.facadeReady

/-- Over the model's own lists of requests and outputs, and its markers for REPORT_FATAL and HALT
(entry 2), after R54: a step but a reset keeps the count of what is presented, in progress and
returned, and does one of these. It waits, for the facade's answer, DEC and ENC waiting too (DEDUCED,
entry 11), or for a request (entry 23). It takes the facade's answer and returns that one output. It
goes on with the DEC transaction in progress and returns at most its one output. It accepts one
request and returns exactly one output of that request's port, nothing yet for DEC and for an
`Interrupt` that the facade does not answer at once. -/
def Obligations.TransactionsReturnExactlyOnce : Prop :=
  ∀ s t : State, step s = .next t → s.resetLine = false →
    transactionCount t = transactionCount s ∧
    ((t = s ∧ ((s.awaiting ≠ none ∧ s.facadeReady = false) ∨
        (s.awaiting = none ∧ s.decIn = none ∧ s.pending = []))) ∨
      (s.awaiting ≠ none ∧ s.facadeReady = true ∧ t.awaiting = none ∧ t.decIn = s.decIn ∧
        t.pending = s.pending ∧ ∃ r, t.responses = s.responses ++ [.exec (some r)]) ∨
      (s.awaiting = none ∧ s.decIn ≠ none ∧ t.awaiting = none ∧ t.pending = s.pending ∧
        ((t.decIn ≠ none ∧ t.responses = s.responses) ∨
          (t.decIn = none ∧ ∃ o, AnswersDec o ∧ t.responses = s.responses ++ [o]))) ∨
      (∃ r rest, Accepts s r rest ∧ t.pending = rest ∧
        ((∃ stream, r = .dec stream ∧ t.decIn = some stream ∧ t.awaiting = none ∧
            t.responses = s.responses) ∨
          (∃ v code, r = .exec v ∧ s.facadeReady = false ∧ t.awaiting = some code ∧
            t.decIn = none ∧ t.responses = s.responses) ∨
          (t.decIn = none ∧ t.awaiting = none ∧
            ∃ o, Answers r o ∧ t.responses = s.responses ++ [o]))))

/-- R57: outputs and facade calls are only ever added at the end. That requests are taken in the order
presented, whatever their ports, is the model's own queue and no rule of the spec (entry 2), and once
the latch is set it takes the framer's requests from among the dispatcher's (R132). -/
def Obligations.OutputsAndCallsKeepTheirOrder : Prop :=
  ∀ s t : State, step s = .next t → s.resetLine = false →
    s.responses <+: t.responses ∧ s.fac.log <+: t.fac.log ∧ t.pending.Sublist s.pending ∧
    (s.fac.halted = false → t.pending <:+ s.pending)

/-! ## The framer -/

/-- R191 to R198, and R208 for ParamOverflow: what one byte of a DEC transaction does, row by row of
the transition table. A fault ends the transaction (R202), with the framer back at its reset values
(R228); the values of `cur` among them are the model's choice (entry 13). -/
def Obligations.DecodeByteTransitions : Prop :=
  ∀ (s : State) (x : Byte) (xs : List Byte), s.resetLine = false → s.awaiting = none →
    s.decIn = some (x :: xs) →
    (s.framer.ds = .idle → x.toNat = 0 →
      step s = .next { s with decIn := some xs, framer.ds := .readingOpcode }) ∧
    (s.framer.ds = .idle → 1 ≤ x.toNat → x.toNat ≤ 254 →
      step s = .next { s with decIn := none, framer := Framer.reset,
                              responses := s.responses ++ [.decFault .decodeStrayByte] }) ∧
    (s.framer.ds = .idle → x.toNat = 255 →
      step s = .next { s with decIn := none, framer := Framer.reset,
                              responses := s.responses ++ [.decFault .decodeStrayEnd] }) ∧
    (s.framer.ds = .readingOpcode → x.toNat ≤ 12 →
      ∃ tag, opbyte tag = x ∧
        step s = .next { s with
          decIn := some xs
          framer := { ds := .accumulating, curOp := tag, curParams := [], out := s.framer.out } }) ∧
    (s.framer.ds = .readingOpcode → 13 ≤ x.toNat →
      step s = .next { s with decIn := none, framer := Framer.reset,
                              responses := s.responses ++ [.decFault .decodeUnknownOpcode] }) ∧
    (s.framer.ds = .accumulating → x.toNat ≤ 254 →
      s.cfg.paramMax ≠ some s.framer.curParams.length →
      step s = .next { s with
        decIn := some xs, framer.curParams := s.framer.curParams ++ [x] }) ∧
    (s.framer.ds = .accumulating → x.toNat ≤ 254 →
      s.cfg.paramMax = some s.framer.curParams.length →
      step s = .next { s with decIn := none, framer := Framer.reset,
                              responses := s.responses ++ [.decFault .paramOverflow] }) ∧
    (s.framer.ds = .accumulating → x.toNat = 255 →
      step s = .next { s with
        decIn := some xs
        framer := { s.framer with
          ds := .idle
          out := s.framer.out ++ [⟨(opbyte s.framer.curOp).toNat, s.framer.curParams⟩] } })

/-- R199 to R202: the end of the stream of a DEC transaction: an open instruction is dropped without
a fault, and a stream that ends right after a frame start faults. That the framer is at its reset
values after an Ok end too is the model's reading (DEDUCED, entry 16), and the values of `cur` among
them are its choice (entry 13). -/
def Obligations.DecodeEndOfStream : Prop :=
  ∀ s : State, s.resetLine = false → s.awaiting = none → s.decIn = some [] →
    (s.framer.ds ≠ .readingOpcode →
      step s = .next { s with decIn := none, framer := Framer.reset,
                              responses := s.responses ++ [.decOk s.framer.out] }) ∧
    (s.framer.ds = .readingOpcode →
      step s = .next { s with decIn := none, framer := Framer.reset,
                              responses := s.responses ++ [.decFault .decodeTruncatedOpcode] })

/-- R191, R202, R203, R209: the byte-serial DEC transaction of the machine computes the function
`decode`, from any decode state left behind, in at most one step per byte and two more, and changes
nothing but the outputs: not the facade's record, halted or not. The step that accepts the stream is
the model's (entry 1), and so are the framer's reset values after an Ok end (entry 16) with those of
`cur` (entry 13). -/
def Obligations.SerialDecodeComputesDecode : Prop :=
  ∀ (s : State) (stream : List Byte) (rest : List Request), Accepts s (.dec stream) rest →
    ∃ k, k ≤ stream.length + 2 ∧
      Host.Core.run Sys2Proof.core k s = .next { s with
        pending := rest
        framer := Framer.reset
        responses := s.responses ++
          [match decodeStream s.cfg.paramMax stream with
           | .ok program => .decOk program
           | .error reason => .decFault reason] }

/-- R202, R229 (d): the first offending byte decides; what follows it is not examined. -/
def Obligations.FirstOffendingByteDecides : Prop :=
  ∀ (paramMax : Option Nat) (xs ys : List Byte) (reason : FramerFault),
    runBytes paramMax Framer.reset xs = .error reason →
    decodeStream paramMax (xs ++ ys) = .error reason

/-- R187, R188, R190: ENC delivers the frames of the whole program one after another if every tag is
in the table, and otherwise EncodeNoEntry and no byte; it changes nothing but the outputs. A number
that OPW bits do not hold cannot travel on the port; what the model does with one is said in
entry 3. -/
def Obligations.EncDeliversWholeStreamOrFault : Prop :=
  ∀ (s : State) (program : Program) (rest : List Request), Accepts s (.enc program) rest →
    (∀ v ∈ program, v.op < 2 ^ s.cfg.opw) →
    ((∀ v ∈ program, v.op ≤ 12) →
      step s = .next { s with pending := rest,
                              responses := s.responses ++ [.encOk (frames program)] }) ∧
    ((∃ v ∈ program, 13 ≤ v.op) →
      step s = .next { s with pending := rest,
                              responses := s.responses ++ [.encFault .encodeNoEntry] })

/-- R204, R205: a program of table tags without a parameter byte 255 (and within PARAM_MAX) comes
back from `encode` and `decode`, parameter bytes 0 and 254 included. -/
def Obligations.StorableProgramRoundTrips : Prop :=
  ∀ (paramMax : Option Nat) (program : Program), (∀ v ∈ program, Loadable paramMax v) →
    ∃ stream, encodeProgram program = .ok stream ∧ decodeStream paramMax stream = .ok program

/-- R207: the other direction, for a stream with no trailing frame dropped and for one with it;
two streams that decode alike with the decoder idle at their ends are the same stream, and with a
dropped frame they need not be. -/
def Obligations.AcceptedStreamEncodesBack : Prop :=
  (∀ (paramMax : Option Nat) (stream : List Byte) (program : Program),
    decodeStream paramMax stream = .ok program →
    ∃ f, runBytes paramMax Framer.reset stream = .ok f ∧
      ((f.ds = .idle ∧ encodeProgram program = .ok stream) ∨
       (f.ds = .accumulating ∧ ∃ bytes tail, encodeProgram program = .ok bytes ∧
          stream = bytes ++ tail ∧ OpenFrame paramMax tail))) ∧
  (∀ (paramMax : Option Nat) (s₁ s₂ : List Byte) (f₁ f₂ : Framer) (program : Program),
    runBytes paramMax Framer.reset s₁ = .ok f₁ → f₁.ds = .idle →
    runBytes paramMax Framer.reset s₂ = .ok f₂ → f₂.ds = .idle →
    decodeStream paramMax s₁ = .ok program → decodeStream paramMax s₂ = .ok program → s₁ = s₂) ∧
  (∃ (s₁ s₂ : List Byte) (program : Program), s₁ ≠ s₂ ∧
    decodeStream none s₁ = .ok program ∧ decodeStream none s₂ = .ok program)

/-- R209, R70: the accepted streams, exactly: the frames of loadable instruction values one after
another, then nothing or one frame that was opened and not closed. -/
def Obligations.DecoderAcceptsFramesAndOneOpenTail : Prop :=
  ∀ (paramMax : Option Nat) (stream : List Byte) (program : Program),
    decodeStream paramMax stream = .ok program ↔
      (∀ v ∈ program, Loadable paramMax v) ∧
      ∃ tail, stream = frames program ++ tail ∧ (tail = [] ∨ OpenFrame paramMax tail)

/-- R206, R270: an embedded 255 closes the instruction early, and the byte after it decides: 0 opens
a spurious frame or faults on its opcode byte (the real frame end, when nothing follows), 1 to 254
and 255 fault. -/
def Obligations.EmbeddedFrameEndMisframes : Prop :=
  ∀ (paramMax : Option Nat) (tag : Opcode) (u w : List Byte) (stream : List Byte),
    eof ∉ u → Fits paramMax u → stream = Frame.bytes ⟨opbyte tag, u ++ eof :: w⟩ →
    runBytes paramMax Framer.reset (sof :: opbyte tag :: (u ++ [eof])) =
      .ok ⟨.idle, tag, u, [⟨(opbyte tag).toNat, u⟩]⟩ ∧
    (w = [] → decodeStream paramMax stream = .error .decodeStrayEnd) ∧
    (∀ x w', w = x :: w' →
      (x.toNat = 255 → decodeStream paramMax stream = .error .decodeStrayEnd) ∧
      (1 ≤ x.toNat → x.toNat ≤ 254 →
        decodeStream paramMax stream = .error .decodeStrayByte) ∧
      (x.toNat = 0 → w' = [] → decodeStream paramMax stream = .error .decodeUnknownOpcode) ∧
      (∀ y w'', x.toNat = 0 → w' = y :: w'' →
        (13 ≤ y.toNat → decodeStream paramMax stream = .error .decodeUnknownOpcode) ∧
        (∀ spurious, y = opbyte spurious →
          runBytes paramMax Framer.reset
            (sof :: opbyte tag :: (u ++ [eof, sof, opbyte spurious])) =
              .ok ⟨.accumulating, spurious, [], [⟨(opbyte tag).toNat, u⟩]⟩)))

/-- R208: with a finite PARAM_MAX the byte that would exceed it is the fault ParamOverflow, wherever
the frame stands; with none the fault does not exist. -/
def Obligations.ParamOverflowOnlyWithFiniteBound : Prop :=
  (∀ (m : Nat) (before : Program) (tag : Opcode) (params rest : List Byte),
    (∀ v ∈ before, Loadable (some m) v) → eof ∉ params → m < params.length →
    decodeStream (some m) (frames before ++ (sof :: opbyte tag :: (params ++ rest))) =
      .error .paramOverflow) ∧
  (∀ stream : List Byte, decodeStream none stream ≠ .error .paramOverflow)

/-! ## The reference harness (no part of the block) -/

/-- R275: a harness run ends in a load fault exactly as `decode` faults, or after executing the
instructions of the decoded program one after another, from the reset block, by the block's own
steps: the results are the outputs those delivered, the record is that of the last state, and the
run stops before the program's end only when halted, or at an `Interrupt` that the facade does not
answer (R151; entry 11). It never makes a dispatcher call without a step. The harness is no part of
the block (entry 22). -/
def Obligations.HarnessRunEndsCleanOrHalted : Prop :=
  ∀ (s₀ : State) (stream : List Byte),
    match runHarness s₀ stream with
    | .loadFault reason => decodeStream s₀.cfg.paramMax stream = .error reason
    | .done ip results fac =>
      ∃ (program : Program) (trace : Nat → State),
        decodeStream s₀.cfg.paramMax stream = .ok program ∧ ip ≤ program.length ∧
        HarnessTrace s₀ program ip results trace ∧
        fac = (trace ip).fac ∧ (fac.halted = false → ip = program.length)
    | .waiting ip results fac =>
      s₀.facadeReady = false ∧
      ∃ (program : Program) (trace : Nat → State) (v : InstrValue) (code : Byte),
        decodeStream s₀.cfg.paramMax stream = .ok program ∧
        HarnessTrace s₀ program ip results trace ∧ fac = (trace ip).fac ∧ fac.halted = false ∧
        program[ip]? = some v ∧ valueAtPort s₀.cfg v = ⟨6, [code]⟩
    | .stuck => False

/-! ## The ports -/

/-- R132, R9: a request is accepted when it is the first presented that has a step: every one before
it is on a dispatcher port of a halted block, and stays presented with those behind it. None is while
a transaction is in progress (R54); that DEC and ENC wait for an interrupt call too is read from R54,
by which no two transactions overlap (DEDUCED, entry 11). That the first such request is the one
accepted is the model's own queue (DESIGN CHOICE, entry 2), and so is the reset line, with which the
step is a reset and takes none (DESIGN CHOICE, entry 14). -/
def Obligations.AcceptedRequestIsTheFirstWithAStep : Prop :=
  ∀ (s : State) (r : Request) (rest : List Request),
    Accepts s r rest ↔
      s.resetLine = false ∧ s.awaiting = none ∧ s.decIn = none ∧
      ¬ (s.fac.halted = true ∧ r.isDispatcher = true) ∧
      ∃ before behind, s.pending = before ++ r :: behind ∧ rest = before ++ behind ∧
        ∀ q ∈ before, s.fac.halted = true ∧ q.isDispatcher = true

/-- R5, R25, R155: a port carries every number and every code that its width holds as it is, the 13
tags among them from OPW = 4 on, and nothing wider leaves it. That it carries the low bits of a
wider one is the model's choice (entries 3 and 6). -/
def Obligations.PortsCarryWhatTheirWidthHolds : Prop :=
  ∀ c : Config,
    (∀ v : InstrValue, v.op < 2 ^ c.opw → valueAtPort c v = v) ∧
    (∀ v : InstrValue, (valueAtPort c v).op < 2 ^ c.opw ∧ (valueAtPort c v).params = v.params) ∧
    (4 ≤ c.opw → ∀ tag : Opcode, (opbyte tag).toNat < 2 ^ c.opw) ∧
    (∀ k : Code, c.CodeFits k → codeAtPort c k = k) ∧
    (∀ k : Code, c.CodeFits (codeAtPort c k))

/-- R31, R155: where CODEW holds the codes of R221 and the two codes that are parameters, every step
keeps every code given to the facade, and its exit code, a signed integer of CODEW bits. For a
REPORT_FATAL request with a code that CODEW bits do not hold this rests on the model's cut to the low
bits (DESIGN CHOICE, entry 6), and for a reset on its exit code 0 (DESIGN CHOICE, entry 13). -/
def Obligations.EveryStepKeepsCodesWithinTheirWidth : Prop :=
  ∀ s t : State, s.cfg.WidthsOk → CodesOk s.cfg s.fac → step s = .next t →
    t.cfg.WidthsOk ∧ CodesOk t.cfg t.fac

/-! ## A facade that does not answer -/

/-- Every step keeps `WaitOk`: an interrupt call in progress (the model's own field, entry 11) has the
halt latch clear (after R132) and no DEC transaction beside it. That no DEC transaction begins beside
it is read from R54 (DEDUCED, entry 11). -/
def Obligations.EveryStepKeepsTheInterruptCallAlone : Prop :=
  ∀ s t : State, WaitOk s → step s = .next t → WaitOk t

/-- R151: under a facade that never answers, an `Interrupt` never completes, and no transaction
begins: whatever is presented, every number of steps from the step that made the call on leaves the
block waiting, with the call in progress, nothing returned and nothing logged. That the facade
answers or not is an input (entry 11). That DEC and ENC wait too is read from R54, by which no two
transactions overlap (DEDUCED, entry 11). -/
def Obligations.UnansweredInterruptNeverCompletes : Prop :=
  ∀ (s : State) (v : InstrValue) (code : Byte) (rest : List Request), s.facadeReady = false →
    Accepts s (.exec v) rest → valueAtPort s.cfg v = ⟨6, [code]⟩ →
    ∀ k : Nat, Host.Core.run Sys2Proof.core (k + 1) s =
      .next { s with pending := rest, awaiting := some code }
end

