-- ==== Sys2Proof/Laws/Decode.lean ====
section
/-! SUPPORT. The two directions of the opcode byte table, and reading frames. -/

namespace Sys2Proof

@[simp] theorem tagOf_opbyte (t : Opcode) : tagOf (opbyte t).toNat = some t := by
  cases t <;> rfl

/-- `opbyte` and `tagOf` are inverse on the table. -/
theorem opbyte_of_tagOf {n : Nat} {t : Opcode} (h : tagOf n = some t) : (opbyte t).toNat = n := by
  unfold tagOf at h
  split at h <;> first | (cases h; rfl) | cases h

/-- The table ends at 12. -/
theorem tagOf_eq_none_iff {n : Nat} : tagOf n = none ↔ 13 ≤ n := by
  unfold tagOf
  split <;> simp_all
  omega

/-- A number is in the table up to 12. -/
theorem tagOf_isSome_iff {n : Nat} : (tagOf n).isSome = true ↔ n ≤ 12 := by
  rw [← Option.ne_none_iff_isSome, Ne, tagOf_eq_none_iff]
  omega

@[simp] theorem optag_opbyte (t : Opcode) : optag (opbyte t) = some t := by
  cases t <;> rfl

/-- `opbyte` and `optag` are inverse on the table. -/
theorem opbyte_of_optag {b : Byte} {t : Opcode} (h : optag b = some t) : opbyte t = b := by
  exact BitVec.eq_of_toNat_eq (opbyte_of_tagOf h)

/-- The table ends at 12. -/
theorem optag_eq_none_iff {b : Byte} : optag b = none ↔ 13 ≤ b.toNat :=
  tagOf_eq_none_iff

/-- The three sentinels are different bytes. -/
@[simp] theorem eof_ne_sof : (eof : Byte) ≠ sof := by decide

/-- A byte is in the table up to 12. -/
theorem optag_isSome_iff {b : Byte} : (optag b).isSome = true ↔ b.toNat ≤ 12 :=
  tagOf_isSome_iff

/-- The first frame end byte cuts. -/
theorem cutAtFrameEnd_append {params : List Byte} (h : eof ∉ params) (rest : List Byte) :
    cutAtFrameEnd (params ++ eof :: rest) = some (params, rest) := by
  induction params with
  | nil => simp [cutAtFrameEnd]
  | cons x xs ih =>
    obtain ⟨hx, hxs⟩ := List.ne_and_not_mem_of_not_mem_cons h
    rw [List.cons_append, cutAtFrameEnd, if_neg (Ne.symm hx), ih hxs]

/-- What a cut says of the bytes. -/
theorem cutAtFrameEnd_some {bytes params rest : List Byte}
    (h : cutAtFrameEnd bytes = some (params, rest)) :
    bytes = params ++ eof :: rest ∧ eof ∉ params := by
  induction bytes generalizing params with
  | nil => cases h
  | cons x xs ih =>
    rw [cutAtFrameEnd] at h
    split at h
    · cases h; simp [‹x = eof›]
    · split at h
      · cases h
      · cases h
        obtain ⟨hb, hn⟩ := ih ‹_›
        exact ⟨by simp [hb], by simp [hn, Ne.symm ‹¬x = eof›]⟩

/-- A frame without the frame end byte among its parameters reads back, whatever follows it. -/
theorem decodeFrame_bytes {f : Frame} (h : eof ∉ f.params) (rest : List Byte) :
    decodeFrame (f.bytes ++ rest) = .ok (f, rest) := by
  simp [decodeFrame, Frame.bytes, cutAtFrameEnd_append h]

/-- What reading a frame says of the bytes. -/
theorem decodeFrame_ok {bytes rest : List Byte} {f : Frame}
    (h : decodeFrame bytes = .ok (f, rest)) : bytes = f.bytes ++ rest ∧ eof ∉ f.params := by
  unfold decodeFrame at h
  split at h
  · cases h
  · split at h
    · split at h
      · cases h
      · split at h
        · cases h
        · cases h
          obtain ⟨hb, hn⟩ := cutAtFrameEnd_some ‹_›
          exact ⟨by simp [Frame.bytes, hb, ‹_ = sof›], hn⟩
    · cases h

/-- The frame of a number of the table is that of its tag. -/
theorem toFrame_of_tagOf {v : InstrValue} {t : Opcode} (h : tagOf v.op = some t) :
    v.toFrame = ⟨opbyte t, v.params⟩ := by
  simp [InstrValue.toFrame, ← opbyte_of_tagOf h]

end Sys2Proof
end

