-- ==== Sys2Proof/Laws/State.lean ====
section
/-! SUPPORT. One lemma per field per update of the state, each true by `rfl`. -/

namespace Sys2Proof.Machine

variable (s : State)

@[simp] theorem facError_framer (c : Component) (k : Code) :
    (facError c k s).framer =
      s.framer :=
  rfl
@[simp] theorem facError_fac (c : Component) (k : Code) :
    (facError c k s).fac =
      { s.fac with log := s.fac.log ++ [.error c k] } :=
  rfl
@[simp] theorem facError_decIn (c : Component) (k : Code) : (facError c k s).decIn = s.decIn := rfl
@[simp] theorem facError_pending (c : Component) (k : Code) :
    (facError c k s).pending =
      s.pending :=
  rfl
@[simp] theorem facError_responses (c : Component) (k : Code) :
    (facError c k s).responses =
      s.responses :=
  rfl
@[simp] theorem facError_resetLine (c : Component) (k : Code) :
    (facError c k s).resetLine =
      s.resetLine :=
  rfl
@[simp] theorem facError_cfg (c : Component) (k : Code) : (facError c k s).cfg = s.cfg := rfl
@[simp] theorem facError_facade (c : Component) (k : Code) :
    (facError c k s).facade =
      s.facade :=
  rfl

@[simp] theorem facHalt_framer (k : Code) : (facHalt k s).framer = s.framer := rfl
@[simp] theorem facHalt_fac (k : Code) :
    (facHalt k s).fac =
      ⟨s.fac.log ++ [.halt k], true, k⟩ :=
  rfl
@[simp] theorem facHalt_decIn (k : Code) : (facHalt k s).decIn = s.decIn := rfl
@[simp] theorem facHalt_pending (k : Code) : (facHalt k s).pending = s.pending := rfl
@[simp] theorem facHalt_responses (k : Code) : (facHalt k s).responses = s.responses := rfl
@[simp] theorem facHalt_resetLine (k : Code) : (facHalt k s).resetLine = s.resetLine := rfl
@[simp] theorem facHalt_cfg (k : Code) : (facHalt k s).cfg = s.cfg := rfl
@[simp] theorem facHalt_facade (k : Code) : (facHalt k s).facade = s.facade := rfl

@[simp] theorem facInterrupt_framer (b : Byte) (a : List Byte × Bool) :
    (facInterrupt b a s).framer =
      s.framer :=
  rfl
@[simp] theorem facInterrupt_fac (b : Byte) (a : List Byte × Bool) :
    (facInterrupt b a s).fac =
      ⟨s.fac.log ++ [.interrupt b a.1], s.fac.halted || a.2, s.fac.exitCode⟩ :=
  rfl
@[simp] theorem facInterrupt_decIn (b : Byte) (a : List Byte × Bool) :
    (facInterrupt b a s).decIn =
      s.decIn :=
  rfl
@[simp] theorem facInterrupt_pending (b : Byte) (a : List Byte × Bool) :
    (facInterrupt b a s).pending =
      s.pending :=
  rfl
@[simp] theorem facInterrupt_responses (b : Byte) (a : List Byte × Bool) :
    (facInterrupt b a s).responses =
      s.responses :=
  rfl
@[simp] theorem facInterrupt_resetLine (b : Byte) (a : List Byte × Bool) :
    (facInterrupt b a s).resetLine =
      s.resetLine :=
  rfl
@[simp] theorem facInterrupt_cfg (b : Byte) (a : List Byte × Bool) :
    (facInterrupt b a s).cfg =
      s.cfg :=
  rfl
@[simp] theorem facInterrupt_facade (b : Byte) (a : List Byte × Bool) :
    (facInterrupt b a s).facade =
      s.facade :=
  rfl

@[simp] theorem respond_framer (r : Response) : (respond r s).framer = s.framer := rfl
@[simp] theorem respond_fac (r : Response) : (respond r s).fac = s.fac := rfl
@[simp] theorem respond_decIn (r : Response) : (respond r s).decIn = s.decIn := rfl
@[simp] theorem respond_pending (r : Response) : (respond r s).pending = s.pending := rfl
@[simp] theorem respond_responses (r : Response) :
    (respond r s).responses =
      s.responses ++ [r] :=
  rfl
@[simp] theorem respond_resetLine (r : Response) : (respond r s).resetLine = s.resetLine := rfl
@[simp] theorem respond_cfg (r : Response) : (respond r s).cfg = s.cfg := rfl
@[simp] theorem respond_facade (r : Response) : (respond r s).facade = s.facade := rfl

@[simp] theorem returnResult_framer (r : List Byte) : (returnResult r s).framer = s.framer := rfl
@[simp] theorem returnResult_fac (r : List Byte) : (returnResult r s).fac = s.fac := rfl
@[simp] theorem returnResult_decIn (r : List Byte) : (returnResult r s).decIn = s.decIn := rfl
@[simp] theorem returnResult_pending (r : List Byte) : (returnResult r s).pending = s.pending := rfl
@[simp] theorem returnResult_responses (r : List Byte) :
    (returnResult r s).responses =
      s.responses ++ [.exec (some r)] :=
  rfl
@[simp] theorem returnResult_resetLine (r : List Byte) :
    (returnResult r s).resetLine =
      s.resetLine :=
  rfl
@[simp] theorem returnResult_cfg (r : List Byte) : (returnResult r s).cfg = s.cfg := rfl
@[simp] theorem returnResult_facade (r : List Byte) : (returnResult r s).facade = s.facade := rfl

@[simp] theorem deliverFault_framer (f : DispatcherFault) :
    (deliverFault f s).framer =
      s.framer :=
  rfl
@[simp] theorem deliverFault_fac (f : DispatcherFault) :
    (deliverFault f s).fac =
      ⟨(s.fac.log ++ [.error (faultPair s.cfg f).1 (faultPair s.cfg f).2]) ++ [.halt 1], true, 1⟩ :=
  rfl
@[simp] theorem deliverFault_decIn (f : DispatcherFault) : (deliverFault f s).decIn = s.decIn := rfl
@[simp] theorem deliverFault_pending (f : DispatcherFault) :
    (deliverFault f s).pending =
      s.pending :=
  rfl
@[simp] theorem deliverFault_responses (f : DispatcherFault) :
    (deliverFault f s).responses =
      s.responses :=
  rfl
@[simp] theorem deliverFault_resetLine (f : DispatcherFault) :
    (deliverFault f s).resetLine =
      s.resetLine :=
  rfl
@[simp] theorem deliverFault_cfg (f : DispatcherFault) : (deliverFault f s).cfg = s.cfg := rfl
@[simp] theorem deliverFault_facade (f : DispatcherFault) :
    (deliverFault f s).facade =
      s.facade :=
  rfl

@[simp] theorem raiseFault_framer (f : DispatcherFault) : (raiseFault f s).framer = s.framer := rfl
@[simp] theorem raiseFault_fac (f : DispatcherFault) :
    (raiseFault f s).fac =
      (deliverFault f s).fac :=
  rfl
@[simp] theorem raiseFault_decIn (f : DispatcherFault) : (raiseFault f s).decIn = s.decIn := rfl
@[simp] theorem raiseFault_pending (f : DispatcherFault) :
    (raiseFault f s).pending =
      s.pending :=
  rfl
@[simp] theorem raiseFault_responses (f : DispatcherFault) :
    (raiseFault f s).responses =
      s.responses ++ [.exec none] :=
  rfl
@[simp] theorem raiseFault_resetLine (f : DispatcherFault) :
    (raiseFault f s).resetLine =
      s.resetLine :=
  rfl
@[simp] theorem raiseFault_cfg (f : DispatcherFault) : (raiseFault f s).cfg = s.cfg := rfl
@[simp] theorem raiseFault_facade (f : DispatcherFault) : (raiseFault f s).facade = s.facade := rfl

@[simp] theorem resetBlock_framer : (resetBlock s).framer = .reset := rfl
@[simp] theorem resetBlock_fac : (resetBlock s).fac = .reset := rfl
@[simp] theorem resetBlock_decIn : (resetBlock s).decIn = none := rfl
@[simp] theorem resetBlock_pending : (resetBlock s).pending = s.pending := rfl
@[simp] theorem resetBlock_responses : (resetBlock s).responses = s.responses := rfl
@[simp] theorem resetBlock_resetLine : (resetBlock s).resetLine = false := rfl
@[simp] theorem resetBlock_cfg : (resetBlock s).cfg = s.cfg := rfl
@[simp] theorem resetBlock_facade : (resetBlock s).facade = s.facade := rfl

@[simp] theorem acceptRequest_framer (rest : List Request) :
    (acceptRequest rest s).framer = s.framer := rfl
@[simp] theorem acceptRequest_fac (rest : List Request) :
    (acceptRequest rest s).fac = s.fac := rfl
@[simp] theorem acceptRequest_decIn (rest : List Request) :
    (acceptRequest rest s).decIn = s.decIn := rfl
@[simp] theorem acceptRequest_pending (rest : List Request) :
    (acceptRequest rest s).pending = rest := rfl
@[simp] theorem acceptRequest_responses (rest : List Request) :
    (acceptRequest rest s).responses = s.responses := rfl
@[simp] theorem acceptRequest_resetLine (rest : List Request) :
    (acceptRequest rest s).resetLine = s.resetLine := rfl
@[simp] theorem acceptRequest_cfg (rest : List Request) :
    (acceptRequest rest s).cfg = s.cfg := rfl
@[simp] theorem acceptRequest_facade (rest : List Request) :
    (acceptRequest rest s).facade = s.facade := rfl

@[simp] theorem presentValue_framer (v : InstrValue) : (presentValue v s).framer = s.framer := rfl
@[simp] theorem presentValue_fac (v : InstrValue) : (presentValue v s).fac = s.fac := rfl
@[simp] theorem presentValue_decIn (v : InstrValue) : (presentValue v s).decIn = none := rfl
@[simp] theorem presentValue_pending (v : InstrValue) :
    (presentValue v s).pending =
      .exec v :: s.pending :=
  rfl
@[simp] theorem presentValue_responses (v : InstrValue) :
    (presentValue v s).responses =
      s.responses :=
  rfl
@[simp] theorem presentValue_resetLine (v : InstrValue) :
    (presentValue v s).resetLine =
      false :=
  rfl
@[simp] theorem presentValue_cfg (v : InstrValue) : (presentValue v s).cfg = s.cfg := rfl
@[simp] theorem presentValue_facade (v : InstrValue) : (presentValue v s).facade = s.facade := rfl

@[simp] theorem decBegin_framer (stream : List Byte) : (decBegin stream s).framer = .reset := rfl
@[simp] theorem decBegin_fac (stream : List Byte) : (decBegin stream s).fac = s.fac := rfl
@[simp] theorem decBegin_decIn (stream : List Byte) : (decBegin stream s).decIn = some stream := rfl
@[simp] theorem decBegin_pending (stream : List Byte) :
    (decBegin stream s).pending =
      s.pending :=
  rfl
@[simp] theorem decBegin_responses (stream : List Byte) :
    (decBegin stream s).responses =
      s.responses :=
  rfl
@[simp] theorem decBegin_resetLine (stream : List Byte) :
    (decBegin stream s).resetLine =
      s.resetLine :=
  rfl
@[simp] theorem decBegin_cfg (stream : List Byte) : (decBegin stream s).cfg = s.cfg := rfl
@[simp] theorem decBegin_facade (stream : List Byte) : (decBegin stream s).facade = s.facade := rfl

@[simp] theorem decEnd_framer (o : Except FramerFault Program) : (decEnd o s).framer = .reset := rfl
@[simp] theorem decEnd_fac (o : Except FramerFault Program) : (decEnd o s).fac = s.fac := rfl
@[simp] theorem decEnd_decIn (o : Except FramerFault Program) : (decEnd o s).decIn = none := rfl
@[simp] theorem decEnd_pending (o : Except FramerFault Program) :
    (decEnd o s).pending =
      s.pending :=
  rfl
@[simp] theorem decEnd_responses (o : Except FramerFault Program) :
    (decEnd o s).responses =
      s.responses ++ [decResponse o] :=
  rfl
@[simp] theorem decEnd_resetLine (o : Except FramerFault Program) :
    (decEnd o s).resetLine =
      s.resetLine :=
  rfl
@[simp] theorem decEnd_cfg (o : Except FramerFault Program) : (decEnd o s).cfg = s.cfg := rfl
@[simp] theorem decEnd_facade (o : Except FramerFault Program) :
    (decEnd o s).facade =
      s.facade :=
  rfl

@[simp] theorem encTransaction_framer (p : Program) : (encTransaction p s).framer = s.framer := rfl
@[simp] theorem encTransaction_fac (p : Program) : (encTransaction p s).fac = s.fac := rfl
@[simp] theorem encTransaction_decIn (p : Program) : (encTransaction p s).decIn = s.decIn := rfl
@[simp] theorem encTransaction_pending (p : Program) :
    (encTransaction p s).pending =
      s.pending :=
  rfl
@[simp] theorem encTransaction_responses (p : Program) :
    (encTransaction p s).responses =
      s.responses ++ [encResponse (encodeProgram (programAtPort s.cfg p))] :=
  rfl
@[simp] theorem encTransaction_resetLine (p : Program) :
    (encTransaction p s).resetLine =
      s.resetLine :=
  rfl
@[simp] theorem encTransaction_cfg (p : Program) : (encTransaction p s).cfg = s.cfg := rfl
@[simp] theorem encTransaction_facade (p : Program) : (encTransaction p s).facade = s.facade := rfl

@[simp] theorem interruptCall_framer (b : Byte) (a : List Byte × Bool) :
    (interruptCall b a s).framer =
      s.framer :=
  rfl
@[simp] theorem interruptCall_fac (b : Byte) (a : List Byte × Bool) :
    (interruptCall b a s).fac =
      (facInterrupt b a s).fac :=
  rfl
@[simp] theorem interruptCall_decIn (b : Byte) (a : List Byte × Bool) :
    (interruptCall b a s).decIn =
      s.decIn :=
  rfl
@[simp] theorem interruptCall_pending (b : Byte) (a : List Byte × Bool) :
    (interruptCall b a s).pending =
      s.pending :=
  rfl
@[simp] theorem interruptCall_responses (b : Byte) (a : List Byte × Bool) :
    (interruptCall b a s).responses =
      s.responses ++ [.exec (some a.1)] :=
  rfl
@[simp] theorem interruptCall_resetLine (b : Byte) (a : List Byte × Bool) :
    (interruptCall b a s).resetLine =
      s.resetLine :=
  rfl
@[simp] theorem interruptCall_cfg (b : Byte) (a : List Byte × Bool) :
    (interruptCall b a s).cfg =
      s.cfg :=
  rfl
@[simp] theorem interruptCall_facade (b : Byte) (a : List Byte × Bool) :
    (interruptCall b a s).facade =
      s.facade :=
  rfl

@[simp] theorem facError_awaiting (c : Component) (k : Code) :
    (facError c k s).awaiting =
      s.awaiting :=
  rfl
@[simp] theorem facError_facadeReady (c : Component) (k : Code) :
    (facError c k s).facadeReady =
      s.facadeReady :=
  rfl

@[simp] theorem facHalt_awaiting (k : Code) :
    (facHalt k s).awaiting =
      s.awaiting :=
  rfl
@[simp] theorem facHalt_facadeReady (k : Code) :
    (facHalt k s).facadeReady =
      s.facadeReady :=
  rfl

@[simp] theorem facInterrupt_awaiting (b : Byte) (a : List Byte × Bool) :
    (facInterrupt b a s).awaiting =
      s.awaiting :=
  rfl
@[simp] theorem facInterrupt_facadeReady (b : Byte) (a : List Byte × Bool) :
    (facInterrupt b a s).facadeReady =
      s.facadeReady :=
  rfl

@[simp] theorem respond_awaiting (r : Response) :
    (respond r s).awaiting =
      s.awaiting :=
  rfl
@[simp] theorem respond_facadeReady (r : Response) :
    (respond r s).facadeReady =
      s.facadeReady :=
  rfl

@[simp] theorem returnResult_awaiting (r : List Byte) :
    (returnResult r s).awaiting =
      s.awaiting :=
  rfl
@[simp] theorem returnResult_facadeReady (r : List Byte) :
    (returnResult r s).facadeReady =
      s.facadeReady :=
  rfl

@[simp] theorem deliverFault_awaiting (f : DispatcherFault) :
    (deliverFault f s).awaiting =
      s.awaiting :=
  rfl
@[simp] theorem deliverFault_facadeReady (f : DispatcherFault) :
    (deliverFault f s).facadeReady =
      s.facadeReady :=
  rfl

@[simp] theorem raiseFault_awaiting (f : DispatcherFault) :
    (raiseFault f s).awaiting =
      s.awaiting :=
  rfl
@[simp] theorem raiseFault_facadeReady (f : DispatcherFault) :
    (raiseFault f s).facadeReady =
      s.facadeReady :=
  rfl

@[simp] theorem resetBlock_awaiting :
    (resetBlock s).awaiting =
      none :=
  rfl
@[simp] theorem resetBlock_facadeReady :
    (resetBlock s).facadeReady =
      s.facadeReady :=
  rfl

@[simp] theorem acceptRequest_awaiting (rest : List Request) :
    (acceptRequest rest s).awaiting =
      s.awaiting :=
  rfl
@[simp] theorem acceptRequest_facadeReady (rest : List Request) :
    (acceptRequest rest s).facadeReady =
      s.facadeReady :=
  rfl

@[simp] theorem presentValue_awaiting (v : InstrValue) :
    (presentValue v s).awaiting =
      none :=
  rfl
@[simp] theorem presentValue_facadeReady (v : InstrValue) :
    (presentValue v s).facadeReady =
      s.facadeReady :=
  rfl

@[simp] theorem decBegin_awaiting (stream : List Byte) :
    (decBegin stream s).awaiting =
      s.awaiting :=
  rfl
@[simp] theorem decBegin_facadeReady (stream : List Byte) :
    (decBegin stream s).facadeReady =
      s.facadeReady :=
  rfl

@[simp] theorem decEnd_awaiting (o : Except FramerFault Program) :
    (decEnd o s).awaiting =
      s.awaiting :=
  rfl
@[simp] theorem decEnd_facadeReady (o : Except FramerFault Program) :
    (decEnd o s).facadeReady =
      s.facadeReady :=
  rfl

@[simp] theorem encTransaction_awaiting (p : Program) :
    (encTransaction p s).awaiting =
      s.awaiting :=
  rfl
@[simp] theorem encTransaction_facadeReady (p : Program) :
    (encTransaction p s).facadeReady =
      s.facadeReady :=
  rfl

@[simp] theorem interruptCall_awaiting (b : Byte) (a : List Byte × Bool) :
    (interruptCall b a s).awaiting =
      s.awaiting :=
  rfl
@[simp] theorem interruptCall_facadeReady (b : Byte) (a : List Byte × Bool) :
    (interruptCall b a s).facadeReady =
      s.facadeReady :=
  rfl

@[simp] theorem awaitAnswer_framer (b : Byte) :
    (awaitAnswer b s).framer =
      s.framer :=
  rfl
@[simp] theorem awaitAnswer_fac (b : Byte) :
    (awaitAnswer b s).fac =
      s.fac :=
  rfl
@[simp] theorem awaitAnswer_decIn (b : Byte) :
    (awaitAnswer b s).decIn =
      s.decIn :=
  rfl
@[simp] theorem awaitAnswer_pending (b : Byte) :
    (awaitAnswer b s).pending =
      s.pending :=
  rfl
@[simp] theorem awaitAnswer_responses (b : Byte) :
    (awaitAnswer b s).responses =
      s.responses :=
  rfl
@[simp] theorem awaitAnswer_resetLine (b : Byte) :
    (awaitAnswer b s).resetLine =
      s.resetLine :=
  rfl
@[simp] theorem awaitAnswer_cfg (b : Byte) :
    (awaitAnswer b s).cfg =
      s.cfg :=
  rfl
@[simp] theorem awaitAnswer_facade (b : Byte) :
    (awaitAnswer b s).facade =
      s.facade :=
  rfl
@[simp] theorem awaitAnswer_facadeReady (b : Byte) :
    (awaitAnswer b s).facadeReady =
      s.facadeReady :=
  rfl
@[simp] theorem awaitAnswer_awaiting (b : Byte) :
    (awaitAnswer b s).awaiting =
      some b :=
  rfl

@[simp] theorem answerInterrupt_framer (b : Byte) :
    (answerInterrupt b s).framer =
      s.framer :=
  rfl
@[simp] theorem answerInterrupt_decIn (b : Byte) :
    (answerInterrupt b s).decIn =
      s.decIn :=
  rfl
@[simp] theorem answerInterrupt_pending (b : Byte) :
    (answerInterrupt b s).pending =
      s.pending :=
  rfl
@[simp] theorem answerInterrupt_resetLine (b : Byte) :
    (answerInterrupt b s).resetLine =
      s.resetLine :=
  rfl
@[simp] theorem answerInterrupt_cfg (b : Byte) :
    (answerInterrupt b s).cfg =
      s.cfg :=
  rfl
@[simp] theorem answerInterrupt_facade (b : Byte) :
    (answerInterrupt b s).facade =
      s.facade :=
  rfl
@[simp] theorem answerInterrupt_facadeReady (b : Byte) :
    (answerInterrupt b s).facadeReady =
      s.facadeReady :=
  rfl
@[simp] theorem answerInterrupt_awaiting (b : Byte) :
    (answerInterrupt b s).awaiting =
      none :=
  rfl
@[simp] theorem answerInterrupt_fac (b : Byte) :
    (answerInterrupt b s).fac =
      (facInterrupt b (Config.intOracle s.facade s.fac.log b) s).fac :=
  rfl
@[simp] theorem answerInterrupt_responses (b : Byte) :
    (answerInterrupt b s).responses =
      s.responses ++ [.exec (some (Config.intOracle s.facade s.fac.log b).1)] :=
  rfl

end Sys2Proof.Machine
end

