-- ==== Sys2Proof/Laws/Framer.lean ====
section
/-! SUPPORT. What the framer's functions can do. -/

namespace Sys2Proof.Machine

/-- A table number encodes to its frame, any other faults. -/
theorem encodeOne_ok_iff {v : InstrValue} {bytes : List Byte} :
    encodeOne v = .ok bytes ↔ (tagOf v.op).isSome = true ∧ bytes = v.toFrame.bytes := by
  unfold encodeOne
  split
  · simp [*]
  · rename_i tag h
    simp [h, toFrame_of_tagOf h, eq_comm]

@[simp] theorem encodeProgram_nil : encodeProgram [] = .ok [] := rfl

/-- What one byte can do in the decode state, when it raises nothing. -/
theorem byteStep_ok {paramMax : Option Nat} {f g : Framer} {x : Byte}
    (h : byteStep paramMax f x = .ok g) :
    (f.ds = .idle ∧ x = sof ∧ g = { f with ds := .readingOpcode }) ∨
    (f.ds = .readingOpcode ∧ ∃ tag, optag x = some tag ∧
      g = { f with ds := .accumulating, curOp := tag, curParams := [] }) ∨
    (f.ds = .accumulating ∧ x = eof ∧ g = { f with ds := .idle, out := f.out ++ [openInstr f] }) ∨
    (f.ds = .accumulating ∧ x ≠ eof ∧ paramsFull paramMax f.curParams = false ∧
      g = { f with curParams := f.curParams ++ [x] }) := by
  unfold byteStep at h
  split at h
  · split at h
    · cases h; exact .inl ⟨‹_›, ‹_›, rfl⟩
    · split at h <;> cases h
  · split at h
    · cases h
    · cases h; exact .inr (.inl ⟨‹_›, _, ‹_›, rfl⟩)
  · split at h
    · cases h; exact .inr (.inr (.inl ⟨‹_›, ‹_›, rfl⟩))
    · split at h
      · cases h
      · cases h; exact .inr (.inr (.inr ⟨‹_›, ‹_›, by simpa using ‹¬paramsFull _ _ = true›, rfl⟩))

/-- A stream in two parts is run part by part. -/
theorem runBytes_append (paramMax : Option Nat) (f : Framer) (xs ys : List Byte) :
    runBytes paramMax f (xs ++ ys) =
      match runBytes paramMax f xs with
      | .error e => .error e
      | .ok g => runBytes paramMax g ys := by
  induction xs generalizing f with
  | nil => rfl
  | cons x xs ih =>
    simp only [List.cons_append, runBytes]
    split
    · rfl
    · exact ih _

/-- A byte of a DEC transaction: the decode state moves, or the transaction ends with the fault. -/
theorem decByte_cases (x : Byte) (rest : List Byte) (s : State) :
    (∃ f, byteStep s.cfg.paramMax s.framer x = .ok f ∧
      decByte x rest s = { s with framer := f, decIn := some rest }) ∨
    (∃ e, byteStep s.cfg.paramMax s.framer x = .error e ∧
      decByte x rest s = decEnd (.error e) s) := by
  unfold decByte
  split
  · exact .inl ⟨_, ‹_›, rfl⟩
  · exact .inr ⟨_, ‹_›, rfl⟩

/-- Data bytes are appended to the open instruction, as long as PARAM_MAX allows (R194, R196). -/
theorem runBytes_params {paramMax : Option Nat} (f : Framer) (hf : f.ds = .accumulating)
    (params : List Byte) (hn : eof ∉ params) (hfit : Fits paramMax (f.curParams ++ params)) :
    runBytes paramMax f params = .ok { f with curParams := f.curParams ++ params } := by
  induction params generalizing f with
  | nil => simp [runBytes]
  | cons x xs ih =>
    have hx : x ≠ eof := fun h => hn (by simp [h])
    have hfull : paramsFull paramMax f.curParams = false := by
      revert hfit
      simp only [Fits, fits, paramsFull]
      cases paramMax <;> simp
      omega
    have rest := ih { f with curParams := f.curParams ++ [x] } hf (fun h => hn (by simp [h]))
      (by simpa using hfit)
    simp only [hf] at rest
    simp only [runBytes, byteStep, hf, if_neg hx, hfull, Bool.false_eq_true, if_false, rest]
    simp

/-- A frame without its end byte leaves its instruction open (R192 to R196). -/
theorem runBytes_openFrame {paramMax : Option Nat} (f : Framer) (hf : f.ds = .idle)
    {op : Byte} {tag : Opcode} (ho : optag op = some tag) (params : List Byte)
    (hn : eof ∉ params) (hfit : Fits paramMax params) :
    runBytes paramMax f (sof :: op :: params) =
      .ok { f with ds := .accumulating, curOp := tag, curParams := params } := by
  simp only [runBytes, byteStep, hf, if_true, ho]
  rw [runBytes_params _ rfl params hn (by simpa using hfit)]
  simp

/-- A whole frame is closed into the output (R195). -/
theorem runBytes_frame {paramMax : Option Nat} (f : Framer) (hf : f.ds = .idle) {v : InstrValue}
    (hv : Loadable paramMax v) :
    ∃ g, runBytes paramMax f v.toFrame.bytes = .ok g ∧ g.ds = .idle ∧ g.out = f.out ++ [v] := by
  obtain ⟨ht, hs, hfit⟩ := hv
  obtain ⟨tag, ho⟩ := Option.isSome_iff_exists.mp ht
  have split : v.toFrame.bytes = (sof :: opbyte tag :: v.params) ++ [eof] := by
    simp [toFrame_of_tagOf ho, Frame.bytes]
  rw [split, runBytes_append, runBytes_openFrame f hf (optag_opbyte tag) _ hs hfit]
  refine ⟨_, by simp only [runBytes, byteStep, if_true]; rfl, rfl, ?_⟩
  simp [openInstr, opbyte_of_tagOf ho]

end Sys2Proof.Machine
end

