-- ==== Sys2Proof/Laws/Operands.lean ====
section
/-! SUPPORT. Spec lemmas of the operand unpacker, of the byte order and of the port widths. -/

namespace Sys2Proof.Machine

@[simp] theorem split254_nil : split254 [] = ([], []) := rfl

@[simp] theorem split254_sep (xs : List Byte) : split254 (sep :: xs) = ([], xs) := by
  simp [split254]

theorem split254_cons_of_ne {x : Byte} (h : x ≠ sep) (xs : List Byte) :
    split254 (x :: xs) = (x :: (split254 xs).1, (split254 xs).2) := by
  rw [split254, if_neg h]

/-- A sequence without a separator is all segment A. -/
theorem split254_of_not_mem {s : List Byte} (h : sep ∉ s) : split254 s = (s, []) := by
  induction s with
  | nil => rfl
  | cons x xs ih =>
    obtain ⟨hx, hxs⟩ := List.ne_and_not_mem_of_not_mem_cons h
    rw [split254_cons_of_ne (Ne.symm hx), ih hxs]

/-- The first separator splits, and every later one is data of segment B. -/
theorem split254_append_sep {A : List Byte} (h : sep ∉ A) (B : List Byte) :
    split254 (A ++ sep :: B) = (A, B) := by
  induction A with
  | nil => exact split254_sep B
  | cons x xs ih =>
    obtain ⟨hx, hxs⟩ := List.ne_and_not_mem_of_not_mem_cons h
    rw [List.cons_append, split254_cons_of_ne (Ne.symm hx), ih hxs]

theorem norm4_length (s : List Byte) : (norm4 s).length = 4 := by
  simp [norm4]

theorem norm4_of_length_four {s : List Byte} (h : s.length = 4) : norm4 s = s := by
  rw [norm4, List.take_append_of_le_length (by omega), List.take_of_length_le (by omega)]

/-- Normalisation reads the first four bytes and zero where there is none. -/
theorem norm4_eq (s : List Byte) :
    norm4 s = [s.getD 0 0#8, s.getD 1 0#8, s.getD 2 0#8, s.getD 3 0#8] := by
  match s with
  | [] => rfl
  | [_] => rfl
  | [_, _] => rfl
  | [_, _, _] => rfl
  | _ :: _ :: _ :: _ :: _ => simp [norm4]

@[simp] theorem le32_length (v : Word) : (le32 v).length = 4 := rfl

/-- A number that OPW bits hold passes the port as it is. -/
theorem valueAtPort_of_lt {c : Config} {v : InstrValue} (h : v.op < 2 ^ c.opw) : valueAtPort c v = v := by
  simp [valueAtPort, opAtPort, Nat.mod_eq_of_lt h]

/-- A code that CODEW bits hold passes the port as it is. -/
theorem codeAtPort_of_fits {c : Config} {k : Int} (h : c.CodeFits k) : codeAtPort c k = k := by
  unfold Config.CodeFits at h
  unfold codeAtPort
  generalize 2 ^ c.codew = m at *
  exact Int.bmod_eq_of_le_mul_two (by omega) (by omega)

/-- What passes the port is a signed integer of CODEW bits. -/
theorem codeFits_codeAtPort (c : Config) (k : Int) : c.CodeFits (codeAtPort c k) := by
  have even : 2 ^ c.codew = 1 ∨ 2 ^ c.codew % 2 = 0 := by
    cases c.codew <;> simp [Nat.pow_succ]
  unfold Config.CodeFits codeAtPort
  have pos : 0 < 2 ^ c.codew := Nat.two_pow_pos _
  generalize 2 ^ c.codew = m at *
  have h1 := Int.le_bmod (x := k) (m := m) pos
  have h2 := Int.bmod_lt (x := k) (m := m) pos
  omega

/-- A program whose numbers OPW bits hold passes the port as it is. -/
theorem programAtPort_of_lt {c : Config} {program : Program}
    (h : ∀ v ∈ program, v.op < 2 ^ c.opw) : programAtPort c program = program :=
  (List.map_congr_left fun v hv => valueAtPort_of_lt (h v hv)).trans (List.map_id program)

end Sys2Proof.Machine
end

