-- ==== Sys2Proof/Laws/Ops.lean ====
section
/-! SUPPORT. What each shared operation of the dispatcher can do. -/

namespace Sys2Proof.Machine

/-- A dispatcher transaction has a step only while the latch is clear, and then only the one. -/
theorem whileRunning_next {s t u : State} (h : whileRunning s t = .next u) :
    s.fac.halted = false ∧ u = t := by
  unfold whileRunning at h
  split at h
  · cases h
  · rename_i hs; cases h; exact ⟨by simpa using hs, rfl⟩

@[simp] theorem whileRunning_of_running {s t : State} (h : s.fac.halted = false) :
    whileRunning s t = .next t := by simp [whileRunning, h]

@[simp] theorem whileRunning_of_halted {s t : State} (h : s.fac.halted = true) :
    whileRunning s t = .fault .dispatcherHalted := by simp [whileRunning, h]

/-- Raising in EXEC is the state claims call `trapped`, with the fault's pair. -/
theorem raiseFault_eq_trapped (f : DispatcherFault) (s : State) :
    raiseFault f s = trapped s (faultPair s.cfg f).1 (faultPair s.cfg f).2 := by
  simp [raiseFault, deliverFault, facError, facHalt, respond, trapped]

/-- Returning a result is the state claims call `completed`. -/
theorem returnResult_eq_completed (r : List Byte) (s : State) :
    returnResult r s = completed s r := rfl

/-- What an arithmetic opcode can do: return the four bytes of what `compute` gives, or raise. -/
theorem arith_next {compute : Word → Word → Except DispatcherFault Word} {params : List Byte}
    {s u : State} (h : arith compute params s = .next u) :
    s.fac.halted = false ∧
      ((∃ v, compute (decodeTwo params).1 (decodeTwo params).2 = .ok v ∧
          u = returnResult (le32 v) s) ∨
        ∃ f, compute (decodeTwo params).1 (decodeTwo params).2 = .error f ∧ u = raiseFault f s) := by
  obtain ⟨hs, rfl⟩ := whileRunning_next h
  refine ⟨hs, ?_⟩
  split
  · exact .inl ⟨_, ‹_›, rfl⟩
  · exact .inr ⟨_, ‹_›, rfl⟩

/-- What `compare(params)` can do: the two faults in their order, or one comparison. -/
theorem compareParams_cases (params : List Byte) (s : State) :
    (params.length < 3 ∧ compareParams params s = raiseFault .compareArity s) ∨
    (3 ≤ params.length ∧ compareOp (params.getD 0 0#8) = none ∧
      compareParams params s = raiseFault .compareSelector s) ∨
    (3 ≤ params.length ∧ ∃ op, compareOp (params.getD 0 0#8) = some op ∧
      compareParams params s = compareBuffer op (params.drop 1) s) := by
  unfold compareParams
  split
  · exact .inl ⟨‹_›, rfl⟩
  · split
    · exact .inr (.inl ⟨by omega, ‹_›, rfl⟩)
    · exact .inr (.inr ⟨by omega, _, ‹_›, rfl⟩)

/-- What a comparison sub-operation can do. -/
theorem compareSub_next {op : CompareOp} {buffer : List Byte} {s u : State}
    (h : compareSub op buffer s = .next u) :
    s.fac.halted = false ∧
      (buffer.length < 2 ∧ u = raiseFault .compareArity s ∨
        2 ≤ buffer.length ∧ u = compareBuffer op buffer s) := by
  obtain ⟨hs, rfl⟩ := whileRunning_next h
  refine ⟨hs, ?_⟩
  split
  · exact .inl ⟨by omega, rfl⟩
  · exact .inr ⟨by omega, rfl⟩

/-- Answering an interrupt is the state claims call `answered`. -/
theorem interruptCall_eq_answered (code : Byte) (answer : List Byte × Bool) (s : State) :
    interruptCall code answer s = answered s code answer.1 (s.fac.halted || answer.2) := rfl

/-- What `Interrupt` can do: forward its one byte and return the answer, or wait for it, or raise. -/
theorem execInterrupt_next {params : List Byte} {s u : State}
    (h : execInterrupt params s = .next u) :
    s.fac.halted = false ∧
      ((∃ code, params = [code] ∧ s.facadeReady = true ∧
          u = interruptCall code (Config.intOracle s.facade s.fac.log code) s) ∨
        (∃ code, params = [code] ∧ s.facadeReady = false ∧ u = awaitAnswer code s) ∨
        params.length ≠ 1 ∧ u = raiseFault .interruptArity s) := by
  obtain ⟨hs, rfl⟩ := whileRunning_next h
  refine ⟨hs, ?_⟩
  split
  · split
    · exact .inl ⟨_, rfl, ‹_›, rfl⟩
    · exact .inr (.inl ⟨_, rfl, by simpa using ‹¬s.facadeReady = true›, rfl⟩)
  · rename_i hne
    refine .inr (.inr ⟨fun hl => ?_, rfl⟩)
    obtain ⟨code, rfl⟩ := List.length_eq_one_iff.mp hl
    exact hne code rfl

end Sys2Proof.Machine
end

