-- ==== Sys2Proof/Laws/PerInstr.lean ====
section
/-! SUPPORT. Statements about every instruction, one lemma per constructor. -/

namespace Sys2Proof.Laws

/-- The leading bytes of the encoding, read as R89 reads them, lie in the instruction's own row of
opcode_table.json: masked with the row's mask they give the row's match. -/
def EncodingInRow.Statement (i : Instr) : Prop :=
  frameNumber ((encode i).take i.matchBytes) &&& i.rowMask = i.rowMatch

/-- The number R89 reads from the first two bytes of an encoding is the opcode number. -/
theorem frameNumber_take_two (i : Instr) :
    frameNumber ((encode i).take 2) = i.opNumber.toNat := by
  simp [encode, Frame.bytes, frameNumber]

theorem EncodingInRow.add (params : List Byte) :
    EncodingInRow.Statement (.add params) := by
  simp [EncodingInRow.Statement, Instr.matchBytes, frameNumber_take_two, Instr.opNumber,
    Instr.rowMask, Instr.rowMatch]

theorem EncodingInRow.subtract (params : List Byte) :
    EncodingInRow.Statement (.subtract params) := by
  simp [EncodingInRow.Statement, Instr.matchBytes, frameNumber_take_two, Instr.opNumber,
    Instr.rowMask, Instr.rowMatch]

theorem EncodingInRow.divide (params : List Byte) :
    EncodingInRow.Statement (.divide params) := by
  simp [EncodingInRow.Statement, Instr.matchBytes, frameNumber_take_two, Instr.opNumber,
    Instr.rowMask, Instr.rowMatch]

theorem EncodingInRow.multiply (params : List Byte) :
    EncodingInRow.Statement (.multiply params) := by
  simp [EncodingInRow.Statement, Instr.matchBytes, frameNumber_take_two, Instr.opNumber,
    Instr.rowMask, Instr.rowMatch]

theorem EncodingInRow.allocate (params : List Byte) :
    EncodingInRow.Statement (.allocate params) := by
  simp [EncodingInRow.Statement, Instr.matchBytes, frameNumber_take_two, Instr.opNumber,
    Instr.rowMask, Instr.rowMatch]

theorem EncodingInRow.assign (params : List Byte) :
    EncodingInRow.Statement (.assign params) := by
  simp [EncodingInRow.Statement, Instr.matchBytes, frameNumber_take_two, Instr.opNumber,
    Instr.rowMask, Instr.rowMatch]

theorem EncodingInRow.interrupt (params : List Byte) :
    EncodingInRow.Statement (.interrupt params) := by
  simp [EncodingInRow.Statement, Instr.matchBytes, frameNumber_take_two, Instr.opNumber,
    Instr.rowMask, Instr.rowMatch]

theorem EncodingInRow.compare (params : List Byte) :
    EncodingInRow.Statement (.compare params) := by
  simp [EncodingInRow.Statement, Instr.matchBytes, frameNumber_take_two, Instr.opNumber,
    Instr.rowMask, Instr.rowMatch]

theorem EncodingInRow.move (params : List Byte) :
    EncodingInRow.Statement (.move params) := by
  simp [EncodingInRow.Statement, Instr.matchBytes, frameNumber_take_two, Instr.opNumber,
    Instr.rowMask, Instr.rowMatch]

theorem EncodingInRow.addr (params : List Byte) :
    EncodingInRow.Statement (.addr params) := by
  simp [EncodingInRow.Statement, Instr.matchBytes, frameNumber_take_two, Instr.opNumber,
    Instr.rowMask, Instr.rowMatch]

theorem EncodingInRow.label (params : List Byte) :
    EncodingInRow.Statement (.label params) := by
  simp [EncodingInRow.Statement, Instr.matchBytes, frameNumber_take_two, Instr.opNumber,
    Instr.rowMask, Instr.rowMatch]

theorem EncodingInRow.goto (params : List Byte) :
    EncodingInRow.Statement (.goto params) := by
  simp [EncodingInRow.Statement, Instr.matchBytes, frameNumber_take_two, Instr.opNumber,
    Instr.rowMask, Instr.rowMatch]

theorem EncodingInRow.clear (params : List Byte) :
    EncodingInRow.Statement (.clear params) := by
  simp [EncodingInRow.Statement, Instr.matchBytes, frameNumber_take_two, Instr.opNumber,
    Instr.rowMask, Instr.rowMatch]

theorem EncodingInRow.compareEqual (buffer : List Byte) :
    EncodingInRow.Statement (.compareEqual buffer) := by
  simp [EncodingInRow.Statement, encode, Frame.bytes, frameNumber, Instr.matchBytes,
    Instr.opNumber, Instr.params, Instr.rowMask, Instr.rowMatch]

theorem EncodingInRow.compareNotEqual (buffer : List Byte) :
    EncodingInRow.Statement (.compareNotEqual buffer) := by
  simp [EncodingInRow.Statement, encode, Frame.bytes, frameNumber, Instr.matchBytes,
    Instr.opNumber, Instr.params, Instr.rowMask, Instr.rowMatch]

theorem EncodingInRow.compareLessThan (buffer : List Byte) :
    EncodingInRow.Statement (.compareLessThan buffer) := by
  simp [EncodingInRow.Statement, encode, Frame.bytes, frameNumber, Instr.matchBytes,
    Instr.opNumber, Instr.params, Instr.rowMask, Instr.rowMatch]

theorem EncodingInRow.compareGreaterThan (buffer : List Byte) :
    EncodingInRow.Statement (.compareGreaterThan buffer) := by
  simp [EncodingInRow.Statement, encode, Frame.bytes, frameNumber, Instr.matchBytes,
    Instr.opNumber, Instr.params, Instr.rowMask, Instr.rowMatch]

theorem EncodingInRow.unrecognised0D (params : List Byte) :
    EncodingInRow.Statement (.unrecognised0D params) := by
  simp [EncodingInRow.Statement, Instr.matchBytes, frameNumber_take_two, Instr.opNumber,
    Instr.rowMask, Instr.rowMatch]

theorem EncodingInRow.unrecognised0E0F (low : BitVec 1) (params : List Byte) :
    EncodingInRow.Statement (.unrecognised0E0F low params) := by
  have row : ∀ l : BitVec 1, (0b0000111#7 ++ l).toNat &&& (Instr.unrecognised0E0F l []).rowMask =
      (Instr.unrecognised0E0F l []).rowMatch := by decide
  exact (congrArg (· &&& _) (frameNumber_take_two _)).trans (row low)

theorem EncodingInRow.unrecognised101F (low : BitVec 4) (params : List Byte) :
    EncodingInRow.Statement (.unrecognised101F low params) := by
  have row : ∀ l : BitVec 4, (0b0001#4 ++ l).toNat &&& (Instr.unrecognised101F l []).rowMask =
      (Instr.unrecognised101F l []).rowMatch := by decide
  exact (congrArg (· &&& _) (frameNumber_take_two _)).trans (row low)

theorem EncodingInRow.unrecognised203F (low : BitVec 5) (params : List Byte) :
    EncodingInRow.Statement (.unrecognised203F low params) := by
  have row : ∀ l : BitVec 5, (0b001#3 ++ l).toNat &&& (Instr.unrecognised203F l []).rowMask =
      (Instr.unrecognised203F l []).rowMatch := by decide
  exact (congrArg (· &&& _) (frameNumber_take_two _)).trans (row low)

theorem EncodingInRow.unrecognised407F (low : BitVec 6) (params : List Byte) :
    EncodingInRow.Statement (.unrecognised407F low params) := by
  have row : ∀ l : BitVec 6, (0b01#2 ++ l).toNat &&& (Instr.unrecognised407F l []).rowMask =
      (Instr.unrecognised407F l []).rowMatch := by decide
  exact (congrArg (· &&& _) (frameNumber_take_two _)).trans (row low)

theorem EncodingInRow.unrecognised80FF (low : BitVec 7) (params : List Byte) :
    EncodingInRow.Statement (.unrecognised80FF low params) := by
  have row : ∀ l : BitVec 7, (0b1#1 ++ l).toNat &&& (Instr.unrecognised80FF l []).rowMask =
      (Instr.unrecognised80FF l []).rowMatch := by decide
  exact (congrArg (· &&& _) (frameNumber_take_two _)).trans (row low)

end Sys2Proof.Laws
end

