-- ==== Sys2Proof/Laws/Step.lean ====
section
/-! SUPPORT. What one step can do. -/

namespace Sys2Proof.Machine

/-- `div32` raises the two faults of division only (R172, R174). -/
theorem div32_error {cfg : Config} {a b : Word} {f : DispatcherFault}
    (h : div32 cfg a b = .error f) (k : Code) : f ≠ .reportedFatal k := by
  unfold div32 at h
  split at h
  · cases h; simp
  · split at h
    · split at h <;> cases h
      simp
    · cases h

/-- The next states of `execute`: a result, an interrupt answered or waiting, or a dispatcher fault,
and none while the latch is set (R132, R133, R151). -/
abbrev ExecShape (s u : State) : Prop :=
  s.fac.halted = false ∧
    ((∃ r, u = returnResult r s) ∨
      (∃ code answer, s.facadeReady = true ∧ u = interruptCall code answer s) ∨
      (∃ code, s.facadeReady = false ∧ u = awaitAnswer code s) ∨
      ∃ f, (∀ k, f ≠ .reportedFatal k) ∧ u = raiseFault f s)

/-- What exec can do when it answers a next state: one of the shapes of a completed, waiting or
faulting EXEC transaction, and nothing while the latch is set. No instruction reports a fault of its
caller's choosing: that is REPORT_FATAL's. -/
theorem exec_next {i : Instr} {s u : State} (h : exec i s = .next u) :
    ExecShape s u := by
  have arithCase : ∀ {c p}, (∀ a b f, c a b = .error f → ∀ k, f ≠ .reportedFatal k) →
      arith c p s = .next u → ExecShape s u := fun hc h => by
    obtain ⟨hs, ⟨v, -, rfl⟩ | ⟨f, he, rfl⟩⟩ := arith_next h
    · exact ⟨hs, .inl ⟨_, rfl⟩⟩
    · exact ⟨hs, .inr (.inr (.inr ⟨_, hc _ _ _ he, rfl⟩))⟩
  have subCase : ∀ {op b}, compareSub op b s = .next u → ExecShape s u := fun h => by
    obtain ⟨hs, ⟨-, rfl⟩ | ⟨-, rfl⟩⟩ := compareSub_next h
    · exact ⟨hs, .inr (.inr (.inr ⟨_, by simp, rfl⟩))⟩
    · exact ⟨hs, .inl ⟨_, rfl⟩⟩
  have raiseCase : ∀ {f}, (∀ k, f ≠ .reportedFatal k) → whileRunning s (raiseFault f s) = .next u → ExecShape s u := fun hf h => by
    obtain ⟨hs, rfl⟩ := whileRunning_next h
    exact ⟨hs, .inr (.inr (.inr ⟨_, hf, rfl⟩))⟩
  cases i with
  | add p => unfold exec execAdd at h; exact arithCase (by simp) h
  | subtract p => unfold exec execSubtract at h; exact arithCase (by simp) h
  | divide p => unfold exec execDivide at h; exact arithCase (fun _ _ _ => div32_error) h
  | multiply p => unfold exec execMultiply at h; exact arithCase (by simp) h
  | interrupt p =>
    obtain ⟨hs, ⟨code, -, hr, rfl⟩ | ⟨code, -, hr, rfl⟩ | ⟨-, rfl⟩⟩ := execInterrupt_next h
    · exact ⟨hs, .inr (.inl ⟨_, _, hr, rfl⟩)⟩
    · exact ⟨hs, .inr (.inr (.inl ⟨_, hr, rfl⟩))⟩
    · exact ⟨hs, .inr (.inr (.inr ⟨_, by simp, rfl⟩))⟩
  | compare p =>
    obtain ⟨hs, rfl⟩ := whileRunning_next h
    refine ⟨hs, ?_⟩
    obtain ⟨-, he⟩ | ⟨-, -, he⟩ | ⟨-, op, -, he⟩ := compareParams_cases p s
    · exact .inr (.inr (.inr ⟨_, by simp, he⟩))
    · exact .inr (.inr (.inr ⟨_, by simp, he⟩))
    · exact .inl ⟨_, he⟩
  | compareEqual b => exact subCase h
  | compareNotEqual b => exact subCase h
  | compareLessThan b => exact subCase h
  | compareGreaterThan b => exact subCase h
  | allocate p => exact raiseCase (by simp) h
  | assign p => exact raiseCase (by simp) h
  | move p => exact raiseCase (by simp) h
  | addr p => exact raiseCase (by simp) h
  | label p => exact raiseCase (by simp) h
  | goto p => exact raiseCase (by simp) h
  | clear p => exact raiseCase (by simp) h
  | unrecognised0D p => exact raiseCase (by simp) h
  | unrecognised0E0F l p => exact raiseCase (by simp) h
  | unrecognised101F l p => exact raiseCase (by simp) h
  | unrecognised203F l p => exact raiseCase (by simp) h
  | unrecognised407F l p => exact raiseCase (by simp) h
  | unrecognised80FF l p => exact raiseCase (by simp) h

/-- What the first request with a step is: everything before it is on a dispatcher port of a halted
block, and stays presented. -/
theorem nextRequest_some {halted : Bool} {requests rest : List Request} {r : Request}
    (h : nextRequest halted requests = some (r, rest)) :
    (halted && r.isDispatcher) = false ∧ ∃ before behind,
      requests = before ++ r :: behind ∧ rest = before ++ behind ∧
        ∀ q ∈ before, (halted && q.isDispatcher) = true := by
  induction requests generalizing rest with
  | nil => cases h
  | cons x xs ih =>
    rw [nextRequest] at h
    split at h
    · rename_i hx
      split at h
      · cases h
      · rename_i q left hq
        cases h
        obtain ⟨hr, before, behind, rfl, rfl, hb⟩ := ih hq
        exact ⟨hr, x :: before, behind, rfl, rfl, by
          intro q hq
          rcases List.mem_cons.mp hq with rfl | hq
          · exact hx
          · exact hb q hq⟩
    · rename_i hx
      cases h
      exact ⟨by simpa using hx, [], _, rfl, rfl, by simp⟩

/-- The other direction: a request behind none that has a step is the first. -/
theorem nextRequest_append {halted : Bool} {r : Request} {before : List Request}
    (behind : List Request) (hr : (halted && r.isDispatcher) = false)
    (hb : ∀ q ∈ before, (halted && q.isDispatcher) = true) :
    nextRequest halted (before ++ r :: behind) = some (r, before ++ behind) := by
  induction before with
  | nil => simp [nextRequest, hr]
  | cons x xs ih =>
    rw [List.cons_append, nextRequest, if_pos (hb x (by simp)), ih fun q hq => hb q (by simp [hq])]
    rfl

/-- No request has a step only where the block is halted and all are on dispatcher ports. -/
theorem nextRequest_none {halted : Bool} {requests : List Request} :
    nextRequest halted requests = none ↔ ∀ q ∈ requests, (halted && q.isDispatcher) = true := by
  induction requests with
  | nil => simp [nextRequest]
  | cons x xs ih =>
    rw [nextRequest]
    split
    · rename_i hx
      cases hn : nextRequest halted xs with
      | none =>
        simp only [true_iff]
        intro q hq
        rcases List.mem_cons.mp hq with rfl | hq
        · exact hx
        · exact ih.mp hn q hq
      | some p =>
        simp only [reduceCtorEq, false_iff]
        intro hall
        simp [ih.mpr fun q hq => hall q (by simp [hq])] at hn
    · rename_i hx
      simp only [reduceCtorEq, false_iff]
      exact fun hall => hx (hall x (by simp))

/-- A block that is not halted takes its requests in the order presented. -/
@[simp] theorem nextRequest_running (r : Request) (rest : List Request) :
    nextRequest false (r :: rest) = some (r, rest) := rfl

/-- What one step can do when it answers a next state. -/
theorem step_next {s u : State} (h : step s = .next u) :
    (s.resetLine = true ∧ u = resetBlock s) ∨
    (s.resetLine = false ∧
      ((∃ code, s.awaiting = some code ∧ s.facadeReady = true ∧ u = answerInterrupt code s) ∨
       (s.awaiting ≠ none ∧ s.facadeReady = false ∧ u = s) ∨
       (∃ x rest, s.awaiting = none ∧ s.decIn = some (x :: rest) ∧ u = decByte x rest s) ∨
       (s.awaiting = none ∧ s.decIn = some [] ∧ u = decFinish s) ∨
       (s.awaiting = none ∧ s.decIn = none ∧ s.pending = [] ∧ u = s) ∨
       (∃ r rest, Accepts s r rest ∧ serve r (acceptRequest rest s) = .next u))) := by
  unfold step nextWork at h
  cases hr : s.resetLine with
  | true => simp [hr] at h; exact .inl ⟨rfl, h.symm⟩
  | false =>
    refine .inr ⟨rfl, ?_⟩
    simp only [hr, Bool.false_eq_true, if_false] at h
    match ha : s.awaiting with
    | some code =>
      cases hf : s.facadeReady with
      | true => simp [ha, hf] at h; exact .inl ⟨code, rfl, rfl, h.symm⟩
      | false => simp [ha, hf] at h; exact .inr (.inl ⟨by simp, rfl, h.symm⟩)
    | none =>
      refine .inr (.inr ?_)
      simp only [ha] at h
      match hd : s.decIn with
      | some (x :: rest) => simp [hd] at h; exact .inl ⟨x, rest, rfl, rfl, h.symm⟩
      | some [] => simp [hd] at h; exact .inr (.inl ⟨rfl, rfl, h.symm⟩)
      | none =>
        match hp : nextRequest s.fac.halted s.pending with
        | some (r, rest) =>
          simp only [hd, hp] at h; exact .inr (.inr (.inr ⟨r, rest, ⟨hr, ha, hd, hp⟩, h⟩))
        | none =>
          match hq : s.pending with
          | [] => simp [hd, hq, nextRequest] at h; exact .inr (.inr (.inl ⟨rfl, rfl, rfl, h.symm⟩))
          | r :: rest => simp [hd, hp] at h; simp [hq] at h

/-- The step that accepts a request serves it. -/
theorem step_of_accepts {s : State} {r : Request} {rest : List Request} (h : Accepts s r rest) :
    step s = serve r (acceptRequest rest s) := by
  obtain ⟨hr, ha, hd, hp⟩ := h
  simp [step, nextWork, hr, ha, hd, hp]

/-- What `execute` can do when it answers a next state. -/
theorem execute_next {v : InstrValue} {s u : State} (h : execute v s = .next u) :
    ExecShape s u := by
  unfold execute at h
  split at h
  · exact exec_next h
  · obtain ⟨hs, rfl⟩ := whileRunning_next h
    exact ⟨hs, .inr (.inr (.inr ⟨_, by simp, rfl⟩))⟩

/-- What serving a request can do. -/
theorem serve_next {r : Request} {s u : State} (h : serve r s = .next u) :
    (∃ v, r = .exec v ∧ execute (valueAtPort s.cfg v) s = .next u) ∨
    (∃ code, r = .reportFatal code ∧ s.fac.halted = false ∧
      u = respond .reportFatal (deliverFault (.reportedFatal (codeAtPort s.cfg code)) s)) ∨
    (r = .halt ∧ s.fac.halted = false ∧ u = respond .halt (facHalt s.cfg.haltExitCode s)) ∨
    (∃ stream, r = .dec stream ∧ u = decBegin stream s) ∨
    (∃ program, r = .enc program ∧ u = encTransaction program s) := by
  cases r with
  | exec v => exact .inl ⟨v, rfl, h⟩
  | reportFatal code =>
    obtain ⟨hs, rfl⟩ := whileRunning_next h
    exact .inr (.inl ⟨code, rfl, hs, rfl⟩)
  | halt =>
    obtain ⟨hs, rfl⟩ := whileRunning_next h
    exact .inr (.inr (.inl ⟨rfl, hs, rfl⟩))
  | dec stream => cases h; exact .inr (.inr (.inr (.inl ⟨stream, rfl, rfl⟩)))
  | enc program => cases h; exact .inr (.inr (.inr (.inr ⟨program, rfl, rfl⟩)))

end Sys2Proof.Machine
end

