-- ==== Sys2Proof/Machine/Assembly.lean ====
section
/-! DEFINITION. The spec's assembly notation and pseudo-instructions (30_encoding.md R86, R87; D21).
No part of the block: they name instruction values. -/

namespace Sys2Proof.Machine

/-- The mnemonic of a tag, spelled as R72 spells it (R86). -/
def mnemonic : Opcode → String
  | .add => "Add"
  | .subtract => "Subtract"
  | .divide => "Divide"
  | .multiply => "Multiply"
  | .allocate => "Allocate"
  | .assign => "Assign"
  | .interrupt => "Interrupt"
  | .compare => "Compare"
  | .move => "Move"
  | .addr => "Addr"
  | .label => "Label"
  | .goto => "Goto"
  | .clear => "Clear"

/-- One instruction in the notation of R86; a number without a tag has none. -/
def assemblyOf (v : InstrValue) : Option String :=
  (tagOf v.op).map fun tag =>
    mnemonic tag ++ "(params=[" ++
      String.intercalate "," (v.params.map fun b => toString b.toNat) ++ "])"

/-- A program in the notation of R86. -/
def assemblyOfProgram (program : Program) : Option String :=
  (program.mapM assemblyOf).map fun parts => "[" ++ String.intercalate "," parts ++ "]"

/-- `Add a, b` (R87). -/
def pseudoAdd (a b : Word) : Instr := .add (pack a b)

/-- `Subtract a, b` (R87). -/
def pseudoSubtract (a b : Word) : Instr := .subtract (pack a b)

/-- `Multiply a, b` (R87). -/
def pseudoMultiply (a b : Word) : Instr := .multiply (pack a b)

/-- `Divide a, b` (R87). -/
def pseudoDivide (a b : Word) : Instr := .divide (pack a b)

/-- `Compare.Equal a, b` (R87). -/
def pseudoEqual (a b : Word) : Instr := .compareEqual (pack a b)

/-- `Compare.NotEqual a, b` (R87). -/
def pseudoNotEqual (a b : Word) : Instr := .compareNotEqual (pack a b)

/-- `Compare.LessThan a, b` (R87). -/
def pseudoLessThan (a b : Word) : Instr := .compareLessThan (pack a b)

/-- `Compare.GreaterThan a, b` (R87). -/
def pseudoGreaterThan (a b : Word) : Instr := .compareGreaterThan (pack a b)

/-- `Interrupt c` (R87). -/
def pseudoInterrupt (code : Byte) : Instr := .interrupt [code]

end Sys2Proof.Machine
end

