-- ==== Sys2Proof/Tests/Slice0.lean ====
section
/-! SUPPORT. The model's own tests. Expected values come from spec/: the encodings of
30_encoding.md R71, R72, R75, R89 and the vectors of 95_test_vectors.md, named by their ids. -/

namespace Sys2Proof.Tests

open Sys2Proof.Machine

/-- The state an outcome goes on with. -/
def after : Host.Outcome State Fault Refusal → Option State
  | .next s => some s
  | _ => none

/-- The output and the facade's record after one instruction from reset. -/
def outcome (i : Instr) : Option (Option Response × List FacEvent × Bool) :=
  (after (exec i State.reset)).map fun t => (t.responses.getLast?, t.fac.log, t.fac.halted)

/-- A result and no facade call. -/
def returns (r : List Byte) : Option (Option Response × List FacEvent × Bool) :=
  some (some (.exec (some r)), [], false)

/-- The two facade calls of a fault, and no result. -/
def faults (c : Component) (k : Code) : Option (Option Response × List FacEvent × Bool) :=
  some (some (.exec none), [.error c k, .halt 1], true)

/-! ## WellFormed -/

theorem test_wellFormed_refuses_compare_of_suboperation : ¬ WellFormed (.compare [2, 0, 0]) := by
  decide
theorem test_storable_refuses_frame_end : ¬ Storable ⟨6, [255]⟩ := by decide
theorem test_fits_refuses_beyond_bound : ¬ Fits (some 1) [1, 2] := by decide
theorem test_wellFormed_keeps_illegal_selector : WellFormed (.compare [4, 0, 0]) := by decide

/-! ## Decoding, one frame written out from the table for each row -/

theorem test_decode_add : decode [0x00, 0x00, 1, 254, 2, 0xFF] = .ok (.add [1, 254, 2], []) := by
  decide
theorem test_decode_subtract : decode [0x00, 0x01, 3, 0xFF] = .ok (.subtract [3], []) := by decide
theorem test_decode_divide : decode [0x00, 0x02, 7, 0xFF] = .ok (.divide [7], []) := by decide
theorem test_decode_multiply : decode [0x00, 0x03, 0, 0xFF] = .ok (.multiply [0], []) := by decide
theorem test_decode_allocate : decode [0x00, 0x04, 16, 0xFF] = .ok (.allocate [16], []) := by
  decide
theorem test_decode_assign : decode [0x00, 0x05, 1, 2, 0xFF] = .ok (.assign [1, 2], []) := by
  decide
theorem test_decode_interrupt : decode [0x00, 0x06, 9, 0xFF] = .ok (.interrupt [9], []) := by
  decide
theorem test_decode_compare : decode [0x00, 0x07, 9, 0xFF] = .ok (.compare [9], []) := by decide
theorem test_decode_move : decode [0x00, 0x08, 1, 2, 0xFF] = .ok (.move [1, 2], []) := by decide
theorem test_decode_addr : decode [0x00, 0x09, 0xFF] = .ok (.addr [], []) := by decide
theorem test_decode_label : decode [0x00, 0x0A, 1, 0xFF] = .ok (.label [1], []) := by decide
theorem test_decode_goto : decode [0x00, 0x0B, 1, 0xFF] = .ok (.goto [1], []) := by decide
theorem test_decode_clear : decode [0x00, 0x0C, 0xFF] = .ok (.clear [], []) := by decide
theorem test_decode_compareEqual :
    decode [0x00, 0x07, 0, 5, 254, 5, 0xFF] = .ok (.compareEqual [5, 254, 5], []) := by decide
theorem test_decode_compareNotEqual :
    decode [0x00, 0x07, 1, 0, 0, 0xFF] = .ok (.compareNotEqual [0, 0], []) := by decide
theorem test_decode_compareLessThan :
    decode [0x00, 0x07, 2, 254, 1, 0xFF] = .ok (.compareLessThan [254, 1], []) := by decide
theorem test_decode_compareGreaterThan :
    decode [0x00, 0x07, 3, 1, 254, 0xFF] = .ok (.compareGreaterThan [1, 254], []) := by decide
theorem test_decode_unrecognised0D :
    decode [0x00, 0x0D, 0xFF] = .ok (.unrecognised0D [], []) := by decide
theorem test_decode_unrecognised0E0F :
    decode [0x00, 0x0F, 1, 0xFF] = .ok (.unrecognised0E0F 1 [1], []) := by decide
theorem test_decode_unrecognised101F :
    decode [0x00, 0x1A, 0xFF] = .ok (.unrecognised101F 0xA [], []) := by decide
theorem test_decode_unrecognised203F :
    decode [0x00, 0x3F, 0xFF] = .ok (.unrecognised203F 0x1F [], []) := by decide
theorem test_decode_unrecognised407F :
    decode [0x00, 0x55, 0xFF] = .ok (.unrecognised407F 0x15 [], []) := by decide
theorem test_decode_unrecognised80FF :
    decode [0x00, 0xC8, 2, 0xFF] = .ok (.unrecognised80FF 0x48 [2], []) := by decide

theorem test_decode_rejects_by_name :
    decode [] = .error .noBytes ∧ decode [7] = .error (.noFrameStart 7) ∧
    decode [0] = .error .noOpcode ∧ decode [0, 0, 1] = .error .noFrameEnd := by decide

theorem test_decodeTableWord :
    decodeTableWord 16 0x0003 = some (.multiply []) ∧
    decodeTableWord 16 0x0007 = some (.compare []) ∧
    decodeTableWord 24 0x000702 = some (.compareLessThan []) ∧
    decodeTableWord 16 0x00C8 = some (.unrecognised80FF 0x48 []) ∧
    decodeTableWord 16 0x0700 = none := by decide

theorem test_withFetchWord_runs_the_word :
    after (step (State.reset.withFetchWord 16 0x0000)) =
        some (completed State.reset [0, 0, 0, 0]) ∧
    after (step (State.reset.withFetchWord 24 0x000700)) =
        some (trapped State.reset .cpu 4) ∧
    after (step (State.reset.withFetchWord 16 0x000D)) =
        some (trapped State.reset .cpu 0) := by decide

/-! ## The operand unpacker (VU7, VU13, VU14, VU15) -/

theorem test_decodeTwo_vectors :
    decodeTwo [1, 2, 3, 4, 5, 254, 9] = (67305985, 9) ∧
    decodeTwo [1, 254, 2, 254, 3] = (1, 261634) ∧
    decodeTwo [254, 0, 0, 0, 254, 3, 0, 0, 0] = (0, BitVec.ofInt 32 (-33554432)) ∧
    decodeTwo [254, 255, 255, 255, 254, 1, 0, 0, 0] = (0, BitVec.ofInt 32 (-16777217)) := by
  decide

/-! ## Instructions -/

theorem test_add_wraps_to_min : -- VA5
    outcome (.add [255, 255, 255, 127, 254, 1, 0, 0, 0]) = returns [0, 0, 0, 128] := by decide
theorem test_add_separator_in_operand_a : -- VA8
    outcome (.add [254, 255, 255, 255, 254, 1, 0, 0, 0]) = returns [255, 255, 255, 254] := by
  decide
theorem test_subtract_order : -- VA12
    outcome (.subtract [3, 0, 0, 0, 254, 5, 0, 0, 0]) = returns [254, 255, 255, 255] := by decide
theorem test_subtract_wraps : -- VA14
    outcome (.subtract [0, 0, 0, 0, 254, 0, 0, 0, 128]) = returns [0, 0, 0, 128] := by decide
theorem test_multiply_wraps : -- VA23
    outcome (.multiply [5, 181, 0, 0, 254, 5, 181, 0, 0]) = returns [25, 18, 0, 128] := by decide
theorem test_multiply_negative : -- VA20
    outcome (.multiply [253, 255, 255, 255, 254, 7, 0, 0, 0]) = returns [235, 255, 255, 255] := by
  decide
theorem test_divide_toward_zero : -- VA29, VA45, VA36
    outcome (.divide [249, 255, 255, 255, 254, 2, 0, 0, 0]) = returns [253, 255, 255, 255] ∧
    outcome (.divide [7, 0, 0, 128, 254, 2]) = returns [4, 0, 0, 192] ∧
    outcome (.divide [0, 0, 0, 128, 254, 255, 255, 255, 255]) = returns [0, 0, 0, 128] := by decide
theorem test_divide_settings : -- the notes of VA29 and VA45 on floor, of VA36 on fault, VA43
    wrap32 (quotient .floor (-7) 2) = BitVec.ofInt 32 (-4) ∧
    wrap32 (quotient .floor (-2147483641) 2) = BitVec.ofInt 32 (-1073741821) ∧
    div32 { Config.default with divOvf := .fault } (BitVec.intMin 32) (BitVec.ofInt 32 (-1)) =
      .error .divideOverflow ∧
    outcome (.divide [7]) = faults .cpu 6 := by decide
theorem test_interrupt_forwards_verbatim : -- VI6
    interruptCall 9 ([1, 2], true) State.reset = { State.reset with
      fac := ⟨[.interrupt 9 [1, 2]], true, 0⟩
      responses := [.exec (some [1, 2])] } := by decide
theorem test_interrupt_arity : -- VI7, VI8
    outcome (.interrupt []) = faults .cpu 1 ∧
    outcome (.interrupt [4, 5]) = faults .cpu 1 := by decide
theorem test_compare_checks : -- VC24, VC27, VC28, VC29
    outcome (.compare []) = faults .cpu 4 ∧ outcome (.compare [9, 1]) = faults .cpu 4 ∧
    outcome (.compare [4, 1, 1]) = faults .cpu 5 ∧
    outcome (.compare [254, 1, 1]) = faults .cpu 5 := by decide
theorem test_compareEqual : -- VC11, VC19
    outcome (.compareEqual [0, 0, 0, 128, 254, 0, 0, 0, 128]) = returns [1] ∧
    outcome (.compareEqual [1, 1]) = returns [0] := by decide
theorem test_compareNotEqual : -- VC6, VC16
    outcome (.compareNotEqual [3, 0, 0, 0, 254, 5, 0, 0, 0]) = returns [1] ∧
    outcome (.compareNotEqual [0, 0]) = returns [0] := by decide
theorem test_compareLessThan : -- VC9, VC12, VC1
    outcome (.compareLessThan [255, 255, 255, 255, 254, 0, 0, 0, 0]) = returns [1] ∧
    outcome (.compareLessThan [0, 0, 0, 128, 254, 255, 255, 255, 127]) = returns [1] ∧
    outcome (.compareLessThan [5, 0, 0, 0, 254, 3, 0, 0, 0]) = returns [0] := by decide
theorem test_compareGreaterThan : -- VC10, VC14
    outcome (.compareGreaterThan [255, 255, 255, 255, 254, 0, 0, 0, 0]) = returns [0] ∧
    outcome (.compareGreaterThan [255, 255, 255, 127, 254, 0, 0, 0, 128]) = returns [1] := by
  decide
theorem test_reserved : -- VR1 to VR7
    ([.allocate [16], .assign [1, 2], .move [1, 2], .addr [], .label [1], .goto [1],
      .clear []].map outcome) = List.replicate 7 (faults .kernel 3) := by decide
theorem test_unrecognised : -- VR8 to VR12
    ([13, 14, 128, 254, 255].map fun op => (Instr.ofValue ⟨op, [1]⟩).bind outcome) =
      List.replicate 5 (faults .cpu 0) := by decide

/-! ## Commands, framer, harness -/

theorem test_reportFatal : -- VI12
    (after (step { State.reset with pending := [.reportFatal (-1)] })).map State.fac =
      some ⟨[.error .kernel (-1), .halt 1], true, 1⟩ := by decide
theorem test_halt_then_stuck : -- VI14, VI15
    (after (step { State.reset with pending := [.halt] })).map State.fac =
      some ⟨[.halt 0], true, 0⟩ ∧
    after (step { State.reset with fac.halted := true, pending := [.exec ⟨0, [1]⟩] }) = none := by
  decide
theorem test_encode_vectors : -- VF3, VF15
    encodeProgram [⟨0, [1]⟩, ⟨6, [9]⟩] = .ok [0, 0, 1, 255, 0, 6, 9, 255] ∧
    encodeProgram [⟨0, [1]⟩, ⟨200, [2]⟩] = .error .encodeNoEntry := by decide
theorem test_decode_round_trip_fails_on_255 : -- VF7, VF8, VF9, VF13
    decodeStream none [0, 0, 1, 255, 2, 255] = .error .decodeStrayByte ∧
    decodeStream none [0, 0, 1, 255, 0, 7, 9, 255] = .ok [⟨0, [1]⟩, ⟨7, [9]⟩] ∧
    decodeStream none [0, 0, 1, 255, 255] = .error .decodeStrayEnd ∧
    decodeStream none [0, 0, 255, 0, 0, 255, 255] = .error .decodeStrayEnd := by decide
theorem test_decode_raw_streams : -- VD2, VD3, VD9, VD12, VD14, VD17
    decodeStream none [0] = .error .decodeTruncatedOpcode ∧ decodeStream none [0, 0] = .ok [] ∧
    decodeStream none [0, 255] = .error .decodeUnknownOpcode ∧
    decodeStream none [0, 0, 255, 0] = .error .decodeTruncatedOpcode ∧
    decodeStream none [0, 0, 0, 0, 255] = .ok [⟨0, [0, 0]⟩] ∧
    decodeStream none [0, 12, 0, 12, 255] = .ok [⟨12, [0, 12]⟩] := by decide
theorem test_param_overflow : -- R208
    decodeStream (some 1) [0, 0, 1, 2, 255] = .error .paramOverflow ∧
    decodeStream (some 1) [0, 0, 1, 255] = .ok [⟨0, [1]⟩] := by decide
theorem test_harness : -- P2 and P6 with short operands
    runHarness State.reset [0, 7, 2, 5, 254, 3, 255, 0, 12, 255, 0, 0, 255] =
      .done 2 [some [0], none] ⟨[.error .kernel 3, .halt 1], true, 1⟩ ∧
    runHarness State.reset [0, 0, 254, 255, 255] = .loadFault .decodeStrayEnd := by decide

theorem test_assembly : -- 30_encoding.md R86, P1's second instruction, R87
    assemblyOfProgram [⟨0, [1]⟩, ⟨6, [9]⟩] =
      some "[Add(params=[1]),Interrupt(params=[9])]" ∧
    (pseudoLessThan 5 3).toValue = ⟨7, [2, 5, 0, 0, 0, 254, 3, 0, 0, 0]⟩ := by decide

/-! ## Witnesses: for each statement with hypotheses, a concrete case that meets them all, and for
a statement of several clauses one case a clause, at a boundary where there is one -/

/-- Reset with one request presented. -/
def offered (r : Request) : State := { State.reset with pending := [r] }

/-- Reset with the halt latch set. -/
def haltedState : State := { State.reset with fac.halted := true }

/-- In the middle of a DEC transaction, `Add` open with the parameters `params`. -/
def midDec (ds : DecodeState) (params : List Byte) (rest : List Byte) : State :=
  { State.reset with framer := ⟨ds, .add, params, []⟩, decIn := some rest }

theorem test_witness_StepRunsTheDecodedInstruction :
    WellFormed (.add [1]) ∧
    (Instr.add [1]).toValue.op < 2 ^ State.reset.cfg.opw ∧
    Accepts (offered (.exec ⟨0, [1]⟩)) (.exec (Instr.add [1]).toValue) [] ∧
    valueAtPort State.reset.cfg ⟨255, [1]⟩ = ⟨255, [1]⟩ ∧
    step { offered (.exec ⟨256, [1]⟩) with cfg.opw := 9 } =
      .next (trapped { State.reset with cfg.opw := 9 } .cpu 0) :=
  ⟨rfl, by decide, ⟨rfl, rfl, rfl, rfl⟩, rfl, rfl⟩
theorem test_witness_EncodedFrameDecodesBack :
    WellFormed (.compareLessThan [0, 254]) ∧ Storable (Instr.compareLessThan [0, 254]).toValue := by
  decide
theorem test_witness_DecodedFrameEncodesBack :
    decode [0, 7, 2, 0, 254, 255, 9] = .ok (.compareLessThan [0, 254], [9]) := by decide
theorem test_witness_PortValuesCorrespondToRows :
    WellFormed (.compare [4]) ∧ Instr.ofValue ⟨255, []⟩ = some (.unrecognised80FF 127 []) ∧
    Instr.ofValue ⟨256, []⟩ = none := by decide
theorem test_witness_OpcodeRowsPartitionTheOpcodeByte :
    (Instr.unrecognised0E0F 0 []).matchBytes = 2 ∧ (Instr.unrecognised0E0F 1 [7]).matchBytes = 2 ∧
    15 &&& (Instr.unrecognised0E0F 0 []).rowMask = (Instr.unrecognised0E0F 0 []).rowMatch ∧
    15 &&& (Instr.unrecognised0E0F 1 [7]).rowMask =
      (Instr.unrecognised0E0F 1 [7]).rowMatch := by decide
theorem test_witness_DispatchByOpcodeNumber :
    State.reset.fac.halted = false ∧ haltedState.fac.halted = true ∧
    ([0, 1, 2, 3, 6, 7].map fun op => (after (execute ⟨op, [1, 2]⟩ State.reset)).isSome)
      = List.replicate 6 true ∧
    ([4, 5, 8, 12].map fun op => after (execute ⟨op, []⟩ State.reset)) =
      List.replicate 4 (some (trapped State.reset .kernel 3)) ∧
    ([13, 255, 256, 70000].map fun op => after (execute ⟨op, []⟩ State.reset)) =
      List.replicate 4 (some (trapped State.reset .cpu 0)) ∧
    after (execute ⟨0, []⟩ haltedState) = none := by decide
theorem test_witness_MissingSeparatorMakesOperandBZero : sep ∉ ([255, 255, 0, 0, 1] : List Byte) := by
  decide
theorem test_witness_OnlyFirstFourBytesOfASegmentCount :
    sep ∉ ([1, 2, 3, 4, 5] : List Byte) := by decide
theorem test_witness_PackingLawAndItsFailure :
    sep ∉ le32 5 ∧ (le32 254)[0]? = some sep ∧
    (le32 0xFE000000#32)[3]? = some sep ∧ ∀ k < 3, (le32 0xFE000000#32)[k]? ≠ some sep := by decide
theorem test_witness_AddSubtractMultiply :
    State.reset.fac.halted = false ∧ sep ∉ le32 (BitVec.ofInt 32 (-1)) := by decide
theorem test_witness_DivideReturnsRoundedQuotient :
    (decodeTwo [0, 0, 0, 128, 254, 1]) = (BitVec.intMin 32, 1) ∧
    (decodeTwo [1, 0, 0, 128, 254, 255, 255, 255, 255]) =
      (BitVec.ofInt 32 (-2147483647), BitVec.ofInt 32 (-1)) ∧
    State.reset.cfg.divRound = .towardZero ∧
    ({ State.reset with cfg.divRound := .floor } : State).cfg.divRound = .floor ∧
    decodeTwo [7, 254, 2] = (7, 2) ∧ ¬ (2 : Int) ∣ 7 ∧
    ({ State.reset with cfg.divRound := .unconstrained } : State).cfg.divRound =
      .unconstrained := by decide
theorem test_witness_DivideByZeroTraps :
    State.reset.fac.halted = false ∧ (decodeTwo [5, 254, 0]).2.toInt = 0 ∧
    sep ∉ ([] : List Byte) := by decide
theorem test_witness_DivideOverflowPairWrapsOrTraps :
    decodeTwo [0, 0, 0, 128, 254, 255, 255, 255, 255] = (BitVec.intMin 32, BitVec.ofInt 32 (-1)) ∧
    State.reset.cfg.divOvf = .wrap ∧
    after (exec (.divide [0, 0, 0, 128, 254, 255, 255, 255, 255])
      { State.reset with cfg.divOvf := .fault }) =
        some (trapped { State.reset with cfg.divOvf := .fault } .cpu 6) := by decide
theorem test_witness_SameOperandTwice :
    State.reset.fac.halted = false ∧ sep ∉ le32 9 ∧ (9 : Word) ≠ 0 ∧ sep ∉ le32 0 := by decide
theorem test_witness_PackedOperandsCompareAsGiven :
    State.reset.fac.halted = false ∧ sep ∉ le32 (BitVec.intMin 32) := by decide
theorem test_witness_Compare :
    State.reset.cfg.CmpOk ∧
    ([.compareEqual [0, 0], .compareEqual [0], .compareEqual []].map outcome) =
      [returns [1], faults .cpu 4, faults .cpu 4] ∧
    ([[9, 1], [4, 1, 1], [255, 1, 1], [0, 0, 0], [1, 0, 0], [2, 0, 0], [3, 1, 0]].map fun p =>
      outcome (.compare p)) =
      [faults .cpu 4, faults .cpu 5, faults .cpu 5, returns [1], returns [0], returns [0],
        returns [1]] := by decide
theorem test_witness_InterruptForwardsOneByte :
    State.reset.fac.halted = false ∧ State.reset.facadeReady = true ∧
    step { offered (.exec ⟨6, [9]⟩) with facadeReady := false } =
      .next { State.reset with facadeReady := false, awaiting := some 9 } ∧
    step { State.reset with awaiting := some 9 } =
      .next (answered State.reset 9 (Config.intOracle 0 [] 9).1 (Config.intOracle 0 [] 9).2) ∧
    ([] : List Byte).length ≠ 1 ∧ ([1, 2] : List Byte).length ≠ 1 :=
  ⟨rfl, rfl, rfl, rfl, by decide, by decide⟩
theorem test_witness_EveryStepKeepsTheInterruptCallAlone :
    WaitOk { State.reset with awaiting := some 9 } ∧ WaitOk haltedState :=
  ⟨fun _ => ⟨rfl, rfl⟩, fun h => absurd rfl h⟩
theorem test_witness_UnansweredInterruptNeverCompletes :
    Accepts { offered (.exec ⟨6, [9]⟩) with facadeReady := false } (.exec ⟨6, [9]⟩) [] ∧
    valueAtPort State.reset.cfg ⟨6, [9]⟩ = ⟨6, [9]⟩ ∧
    step { State.reset with facadeReady := false, awaiting := some 9, pending := [.enc [], .halt] } =
      .next { State.reset with
        facadeReady := false, awaiting := some 9, pending := [.enc [], .halt] } :=
  ⟨by decide, rfl, rfl⟩
theorem test_witness_KernelTierAndUnrecognised :
    State.reset.fac.halted = false ∧ 13 ≤ 255 := by decide
theorem test_witness_Commands :
    Accepts (offered (.reportFatal (-1))) (.reportFatal (-1)) [] ∧
    Accepts (offered .halt) .halt [] ∧
    ([-2147483648, 2147483647].map fun k => decide (State.reset.cfg.CodeFits k)) = [true, true] ∧
    ¬ State.reset.cfg.CodeFits 2147483648 := by decide
theorem test_witness_ExecMakesOneOfThreeCallPatterns :
    exec (.add [1]) State.reset = .next (completed State.reset [1, 0, 0, 0]) ∧
    exec (.clear []) State.reset = .next (trapped State.reset .kernel 3) := ⟨rfl, rfl⟩
theorem test_witness_HaltStopsTheDispatcherOnly :
    haltedState.fac.halted = true ∧
    ([.exec ⟨0, []⟩, .reportFatal 7, .halt, .dec [0], .enc []].map fun r =>
      (after (step { haltedState with pending := [r] })).isSome) = [false, false, false, true, true] ∧
    (after (step { haltedState with pending := [.exec ⟨0, []⟩, .halt, .enc [], .dec []] })).map
        (fun t => (t.pending, t.responses)) =
      some ([.exec ⟨0, []⟩, .halt, .dec []], [.encOk []]) ∧ -- R132, R185
    ({ haltedState with decIn := some [] } : State).decIn = some [] := by decide
theorem test_witness_OnlyResetClearsTheHaltLatch :
    after (step { haltedState with pending := [.enc []] }) =
      some { haltedState with responses := [.encOk []] } ∧
    after (step { haltedState with resetLine := true }) = some State.reset := by decide
theorem test_witness_FacInvariant :
    FacOk (⟨[.interrupt 9 [1]], false, 0⟩ : Fac) ∧
    step { offered (.exec ⟨12, []⟩) with fac := ⟨[.interrupt 9 [1]], false, 0⟩ } =
      .next (trapped { State.reset with fac := ⟨[.interrupt 9 [1]], false, 0⟩ } .kernel 3) :=
  ⟨⟨rfl, by simp⟩, rfl⟩
theorem test_witness_FramerInvariant :
    FramerOk (midDec .accumulating [1] [255]) ∧
    step (midDec .accumulating [1] [255]) =
      .next { midDec .idle [1] [] with framer.out := [⟨0, [1]⟩] } :=
  ⟨⟨by simp [midDec], fun _ => by decide, by simp [midDec], by simp [midDec, State.reset]⟩, rfl⟩
theorem test_witness_ResetAbortsAndClears :
    ({ midDec .accumulating [1] [2] with resetLine := true } : State).resetLine = true := rfl
theorem test_witness_IdleBlockWaits :
    State.reset.resetLine = false ∧ State.reset.decIn = none ∧ State.reset.pending = [] := by decide
theorem test_witness_StepStatements :
    step (offered (.dec [0])) = .next { State.reset with decIn := some [0] } ∧
    (offered (.dec [0])).resetLine = false := ⟨rfl, rfl⟩
theorem test_witness_DecodeByteTransitions :
    after (step (midDec .idle [] [0, 7])) = some (midDec .readingOpcode [] [7]) ∧
    ([[1], [254], [255]].map fun bs => (after (step (midDec .idle [] bs))).map State.responses) =
      [some [.decFault .decodeStrayByte], some [.decFault .decodeStrayByte],
        some [.decFault .decodeStrayEnd]] ∧
    after (step (midDec .readingOpcode [9] [12])) =
      some { midDec .accumulating [] [] with framer.curOp := .clear } ∧
    ([[13], [255]].map fun bs => (after (step (midDec .readingOpcode [] bs))).map State.responses) =
      List.replicate 2 (some [.decFault .decodeUnknownOpcode]) ∧
    after (step (midDec .accumulating [9] [0])) = some (midDec .accumulating [9, 0] []) ∧
    after (step (midDec .accumulating [9] [254])) = some (midDec .accumulating [9, 254] []) ∧
    (after (step { midDec .accumulating [9] [254] with cfg.paramMax := some 1 })).map
      State.responses = some [.decFault .paramOverflow] ∧
    after (step { midDec .accumulating [9] [255] with cfg.paramMax := some 1 }) =
      some { midDec .idle [9] [] with cfg.paramMax := some 1, framer.out := [⟨0, [9]⟩] } := by
  decide
theorem test_witness_DecodeEndOfStream :
    ([midDec .idle [] [], midDec .accumulating [1] [], midDec .readingOpcode [] []].map fun s =>
      (after (step s)).map State.responses) =
      [some [.decOk []], some [.decOk []], some [.decFault .decodeTruncatedOpcode]] := by decide
theorem test_witness_SerialDecodeComputesDecode :
    Accepts { midDec .accumulating [1] [] with decIn := none, pending := [.dec [0, 0, 255]] }
      (.dec [0, 0, 255]) [] := by decide
theorem test_witness_FirstOffendingByteDecides :
    runBytes none Framer.reset [0, 13] = .error .decodeUnknownOpcode := by decide
theorem test_witness_EncDeliversWholeStreamOrFault :
    (∀ v ∈ ([⟨12, [255]⟩, ⟨255, []⟩] : Program), v.op < 2 ^ State.reset.cfg.opw) ∧
    Accepts (offered (.enc [⟨12, [255]⟩])) (.enc [⟨12, [255]⟩]) [] ∧
    (∀ v ∈ ([⟨12, [255]⟩] : Program), v.op ≤ 12) ∧
    (∃ v ∈ ([⟨12, []⟩, ⟨13, []⟩] : Program), 13 ≤ v.op) := by decide
theorem test_witness_StorableProgramRoundTrips :
    ∀ v ∈ ([⟨0, [0, 254, 0]⟩, ⟨12, []⟩] : Program), Loadable (some 3) v := by decide
theorem test_witness_AcceptedStreamEncodesBack :
    decodeStream none [0, 0, 255] = .ok [⟨0, []⟩] ∧ decodeStream none [0, 0, 1] = .ok [] ∧
    runBytes none Framer.reset [0, 0, 255] = .ok ⟨.idle, .add, [], [⟨0, []⟩]⟩ := by decide
theorem test_witness_EmbeddedFrameEndMisframes :
    eof ∉ ([1] : List Byte) ∧ Fits none [1] ∧
    ([[], [255], [1], [254], [0], [0, 13], [0, 255]].map fun w =>
      decodeStream none (Frame.bytes ⟨0, 1 :: 255 :: w⟩)) =
      [.error .decodeStrayEnd, .error .decodeStrayEnd, .error .decodeStrayByte,
        .error .decodeStrayByte, .error .decodeUnknownOpcode, .error .decodeUnknownOpcode,
        .error .decodeUnknownOpcode] ∧ opbyte .clear = 12 := by decide
theorem test_witness_ParamOverflowOnlyWithFiniteBound :
    (∀ v ∈ ([⟨12, []⟩] : Program), Loadable (some 0) v) ∧ eof ∉ ([1] : List Byte) ∧
    0 < ([1] : List Byte).length := by decide
theorem test_witness_AcceptedRequestIsTheFirstWithAStep :
    Accepts { haltedState with pending := [.halt, .dec [0], .enc []] } (.dec [0]) [.halt, .enc []] ∧
    Accepts { State.reset with pending := [.halt, .dec [0]] } .halt [.dec [0]] := by decide
theorem test_witness_PortsCarryWhatTheirWidthHolds :
    255 < 2 ^ Config.default.opw ∧ opAtPort Config.default 256 = 0 ∧
    4 ≤ Config.default.opw ∧ Config.default.CodeFits (-1) ∧
    codeAtPort Config.default 2147483648 = -2147483648 := by decide
theorem test_witness_EveryStepKeepsCodesWithinTheirWidth :
    State.reset.cfg.WidthsOk ∧ CodesOk State.reset.cfg State.reset.fac ∧
    step (offered (.reportFatal 4294967295)) = .next { State.reset with
      fac := ⟨[.error .kernel (-1), .halt 1], true, 1⟩, responses := [.reportFatal] } :=
  ⟨by decide, ⟨by simp [State.reset, Fac.reset], by simp [State.reset, Fac.reset], by decide⟩, rfl⟩
theorem test_witness_HarnessRunEndsCleanOrHalted :
    runHarness State.reset [] = .done 0 [] ⟨[], false, 0⟩ ∧
    runHarness { State.reset with facadeReady := false } [0, 0, 255, 0, 6, 9, 255] =
      .waiting 1 [some [0, 0, 0, 0]] ⟨[], false, 0⟩ := by decide

end Sys2Proof.Tests
end

section
/-! PROOFS. The operand unpacker (40_operand_unpacker.md R103, R105, R107, R108). -/

namespace Sys2Proof.Machine

/-! ## The byte order: `int32Le` and `le32` -/

/-- Four bytes never exceed 32 bits, so the little-endian sum is kept as it is. -/
theorem int32Le_toNat (b0 b1 b2 b3 : Byte) :
    (int32Le [b0, b1, b2, b3]).toNat =
      b0.toNat + 256 * b1.toNat + 65536 * b2.toNat + 16777216 * b3.toNat := by
  simp only [int32Le, List.getD_cons_zero, List.getD_cons_succ, BitVec.toNat_ofNat]
  omega

/-- The two's complement reading of R103. -/
theorem int32Le_toInt (b0 b1 b2 b3 : Byte) :
    let u : Int := b0.toNat + 256 * b1.toNat + 65536 * b2.toNat + 16777216 * b3.toNat
    (int32Le [b0, b1, b2, b3]).toInt = if u < 2147483648 then u else u - 4294967296 := by
  intro u
  have hu : ((int32Le [b0, b1, b2, b3]).toNat : Int) = u := by
    rw [int32Le_toNat]; rfl
  rw [BitVec.toInt_eq_toNat_cond, hu]
  split <;> split <;> omega

/-- The sign is the top bit of the last byte. -/
theorem int32Le_toInt_neg_iff (b0 b1 b2 b3 : Byte) :
    (int32Le [b0, b1, b2, b3]).toInt < 0 ↔ 128 ≤ b3.toNat := by
  rw [int32Le_toInt]
  split <;> omega

theorem toNat_extractLsb'_byte (v : Word) (k : Nat) :
    (v.extractLsb' k 8).toNat = v.toNat / 2 ^ k % 256 := by
  rw [BitVec.extractLsb'_toNat, Nat.shiftRight_eq_div_pow]

/-- `le32` keeps the number: its bytes are the base 256 digits of the word. -/
@[simp] theorem int32Le_le32 (v : Word) : int32Le (le32 v) = v := by
  apply BitVec.eq_of_toNat_eq
  simp only [le32, int32Le_toNat, toNat_extractLsb'_byte]
  omega

/-- Base 256 digits are unique: `le32` finds the four bytes again. -/
theorem le32_int32Le (b0 b1 b2 b3 : Byte) :
    le32 (int32Le [b0, b1, b2, b3]) = [b0, b1, b2, b3] := by
  have digit (b : Byte) (k : Nat)
      (h : (int32Le [b0, b1, b2, b3]).toNat / 2 ^ k % 256 = b.toNat) :
      (int32Le [b0, b1, b2, b3]).extractLsb' k 8 = b :=
    BitVec.eq_of_toNat_eq ((toNat_extractLsb'_byte _ k).trans h)
  rw [le32, digit b0 0, digit b1 8, digit b2 16, digit b3 24] <;>
    (rw [int32Le_toNat]; omega)

/-- Settles O8: the reading, its sign and the two inverse laws of the byte order. -/
theorem operandsAreLittleEndianSigned : Obligations.OperandsAreLittleEndianSigned :=
  ⟨fun b0 b1 b2 b3 =>
    ⟨int32Le_toInt b0 b1 b2 b3, int32Le_toInt_neg_iff b0 b1 b2 b3, le32_int32Le b0 b1 b2 b3⟩,
   int32Le_le32⟩

/-! ## The split and the normalisation -/

@[simp] theorem norm4_le32 (v : Word) : norm4 (le32 v) = le32 v :=
  norm4_of_length_four (le32_length v)

/-- An absent operand is 0. -/
@[simp] theorem int32Le_norm4_nil : int32Le (norm4 []) = 0#32 := rfl

/-- Normalisation does not see the bytes beyond the fourth. -/
theorem norm4_take_four (s : List Byte) : norm4 (s.take 4) = norm4 s := by
  simp [norm4_eq, List.getD_eq_getElem?_getD]

theorem decodeTwo_of_not_mem {s : List Byte} (h : sep ∉ s) :
    decodeTwo s = (int32Le (norm4 s), 0#32) := by
  rw [decodeTwo, split254_of_not_mem h, int32Le_norm4_nil]

theorem decodeTwo_append_sep {A : List Byte} (h : sep ∉ A) (B : List Byte) :
    decodeTwo (A ++ sep :: B) = (int32Le (norm4 A), int32Le (norm4 B)) := by
  rw [decodeTwo, split254_append_sep h]

/-- Settles O9: the whole sequence is segment A, and segment B is empty. -/
theorem missingSeparatorMakesOperandBZero : Obligations.MissingSeparatorMakesOperandBZero :=
  fun _ h => decodeTwo_of_not_mem h

/-- Settles O10: the split leaves A and B whole, and normalisation then reads four bytes of each. -/
theorem onlyFirstFourBytesOfASegmentCount : Obligations.OnlyFirstFourBytesOfASegmentCount := by
  have hcut {A : List Byte} (h : sep ∉ A) : sep ∉ A.take 4 := mt List.mem_of_mem_take h
  refine ⟨fun A B h => ⟨decodeTwo_append_sep h B, ?_⟩, fun A h => ?_⟩
  · rw [decodeTwo_append_sep h, decodeTwo_append_sep (hcut h), norm4_take_four, norm4_take_four]
  · rw [decodeTwo_of_not_mem h, decodeTwo_of_not_mem (hcut h), norm4_take_four]

/-! ## The canonical packing -/

theorem pack_eq (a b : Word) : pack a b = le32 a ++ sep :: le32 b := by
  simp [pack]

/-- The packing law. -/
theorem decodeTwo_pack {a : Word} (h : sep ∉ le32 a) (b : Word) :
    decodeTwo (pack a b) = (a, b) := by
  rw [pack_eq, decodeTwo_append_sep h, norm4_le32, norm4_le32, int32Le_le32, int32Le_le32]

/-- Decoding splits at the first index of a separator, whatever follows it. -/
theorem decodeTwo_append_of_first_sep {s : List Byte} {j : Nat} (hj : s[j]? = some sep)
    (hfirst : ∀ k < j, s[k]? ≠ some sep) (t : List Byte) :
    decodeTwo (s ++ t) =
      (int32Le (norm4 (s.take j)), int32Le (norm4 (s.drop (j + 1) ++ t))) := by
  have hA : sep ∉ s.take j := by
    intro hmem
    obtain ⟨k, hk⟩ := List.mem_iff_getElem?.mp hmem
    rw [List.getElem?_take] at hk
    split at hk
    case isTrue hkj => exact hfirst k hkj hk
    case isFalse => simp at hk
  have hs : s = s.take j ++ sep :: s.drop (j + 1) := by
    obtain ⟨hlt, hget⟩ := List.getElem?_eq_some_iff.mp hj
    rw [← hget, ← List.drop_eq_getElem_cons hlt, List.take_append_drop]
  calc decodeTwo (s ++ t)
      = decodeTwo (s.take j ++ sep :: (s.drop (j + 1) ++ t)) := by
        conv_lhs => rw [hs]
        rw [List.append_assoc, List.cons_append]
    _ = _ := decodeTwo_append_sep hA _

/-- Settles O11: the split falls at the separator of `pack`, or at an earlier one inside `le32 a`. -/
theorem packingLawAndItsFailure : Obligations.PackingLawAndItsFailure := by
  refine fun a b => ⟨fun h => decodeTwo_pack h b, fun j hj hfirst => ?_⟩
  rw [pack, List.append_assoc, decodeTwo_append_of_first_sep hj hfirst, List.append_assoc]

end Sys2Proof.Machine
end

section
/-! PROOFS. The reserved tier and the halt latch (41_dispatch_reserved.md R123 to R132). -/

namespace Sys2Proof.Machine

/-! ## Every dispatcher transaction stands behind `whileRunning` -/

/-- R132 holds of every arm of the dispatch: each is some next state behind the halt condition. -/
theorem exec_eq_whileRunning (i : Instr) (s : State) : ∃ t, exec i s = whileRunning s t := by
  cases i <;> exact ⟨_, rfl⟩

/-- So it is of every instruction value, with a row or without one. -/
theorem execute_eq_whileRunning (v : InstrValue) (s : State) :
    ∃ t, execute v s = whileRunning s t := by
  unfold execute
  split
  · exact exec_eq_whileRunning _ s
  · exact ⟨_, rfl⟩

theorem exec_of_halted (i : Instr) {s : State} (h : s.fac.halted = true) :
    exec i s = .fault .dispatcherHalted := by
  obtain ⟨t, ht⟩ := exec_eq_whileRunning i s
  rw [ht, whileRunning_of_halted h]

theorem execute_of_halted (v : InstrValue) {s : State} (h : s.fac.halted = true) :
    execute v s = .fault .dispatcherHalted := by
  obtain ⟨t, ht⟩ := execute_eq_whileRunning v s
  rw [ht, whileRunning_of_halted h]

/-! ## The reserved tier -/

/-- R131: the fault's pair is (Kernel, 3), and it is taken before any parameter is read. -/
theorem reservedTier_of_running {s : State} (h : s.fac.halted = false) :
    reservedTier s = .next (trapped s .kernel 3) := by
  rw [reservedTier, whileRunning_of_running h, raiseFault_eq_trapped]
  rfl

/-- Settles O25: each of the seven arms is `reservedTier` by definition. -/
theorem kernelTierOpcodesTakeReservedTier : Obligations.KernelTierOpcodesTakeReservedTier := by
  intro params s h
  have reserved := reservedTier_of_running h
  exact ⟨reserved, reserved, reserved, reserved, reserved, reserved, reserved⟩

/-! ## The framer's side goes on -/

/-- A DEC or ENC request always has a step, whatever the latch, and that step leaves the facade's
record and the requests presented. -/
theorem serve_of_not_isDispatcher {r : Request} (hr : r.isDispatcher = false) (s : State) :
    ∃ t, serve r s = .next t ∧ t.fac = s.fac ∧ t.pending = s.pending := by
  cases r with
  | exec v => cases hr
  | reportFatal code => cases hr
  | halt => cases hr
  | dec stream => exact ⟨decBegin stream s, rfl, rfl, rfl⟩
  | enc program => exact ⟨encTransaction program s, rfl, rfl, rfl⟩

/-- Accepting a DEC or ENC request takes no dispatcher request from those presented. -/
theorem filter_isDispatcher_of_nextRequest {halted : Bool} {requests rest : List Request}
    {r : Request} (h : nextRequest halted requests = some (r, rest)) (hr : r.isDispatcher = false) :
    rest.filter Request.isDispatcher = requests.filter Request.isDispatcher := by
  obtain ⟨-, before, behind, rfl, rfl, -⟩ := nextRequest_some h
  simp [hr]

/-- A halted block with a DEC or ENC request presented accepts one, past every dispatcher request. -/
theorem nextRequest_of_halted {requests : List Request}
    (h : ∃ r ∈ requests, r.isDispatcher = false) :
    ∃ r rest, nextRequest true requests = some (r, rest) ∧ r.isDispatcher = false := by
  obtain ⟨q, hq, hqd⟩ := h
  cases hn : nextRequest true requests with
  | none =>
    have hblocked := nextRequest_none.mp hn q hq
    simp [hqd] at hblocked
  | some p =>
    obtain ⟨hp, -⟩ := nextRequest_some hn
    exact ⟨p.1, p.2, rfl, by simpa using hp⟩

/-- With requests presented and none that has a step, the block is stuck (entry 12). -/
theorem step_of_nextRequest_none {s : State} (hreset : s.resetLine = false)
    (hwait : s.awaiting = none) (hdec : s.decIn = none) (hpending : s.pending ≠ [])
    (hnext : nextRequest s.fac.halted s.pending = none) :
    step s = .fault .dispatcherHalted := by
  simp [step, nextWork, hreset, hwait, hdec, hnext, hpending]

/-- The step of a DEC transaction in progress never calls the facade (R185). -/
theorem step_of_decIn {s : State} {stream : List Byte} (hreset : s.resetLine = false)
    (hwait : s.awaiting = none) (hdec : s.decIn = some stream) :
    ∃ t, step s = .next t ∧ t.fac = s.fac := by
  cases stream with
  | nil => exact ⟨decFinish s, by simp [step, nextWork, hreset, hwait, hdec], rfl⟩
  | cons x rest =>
    refine ⟨decByte x rest s, by simp [step, nextWork, hreset, hwait, hdec], ?_⟩
    obtain ⟨f, -, h⟩ | ⟨e, -, h⟩ := decByte_cases x rest s
    · rw [h]
    · rw [h, decEnd_fac]

/-- `WaitOk` leaves a halted block with no interrupt call in progress. -/
theorem WaitOk.awaiting_eq_none {s : State} (hw : WaitOk s) (h : s.fac.halted = true) :
    s.awaiting = none := by
  by_contra ha
  obtain ⟨hrun, -⟩ := hw ha
  simp [h] at hrun

/-- Settles O31: the dispatcher's transactions stand behind `whileRunning`, and those of the framer
do not. -/
theorem haltStopsTheDispatcherOnly : Obligations.HaltStopsTheDispatcherOnly := by
  intro s hw h
  have hwait := hw.awaiting_eq_none h
  refine ⟨fun i => exec_of_halted i h, fun v => execute_of_halted v h,
    fun _ => whileRunning_of_halted h, whileRunning_of_halted h, ?stuck, ?framer,
    fun _ hreset hdec => step_of_decIn hreset hwait hdec⟩
  case stuck =>
    intro hreset hdec hpending hall
    have hnext : nextRequest s.fac.halted s.pending = none :=
      nextRequest_none.mpr fun q hq => by simp [h, hall q hq]
    exact step_of_nextRequest_none hreset hwait hdec hpending hnext
  case framer =>
    intro hreset hdec hex
    obtain ⟨r, rest, hnext, hr⟩ := nextRequest_of_halted hex
    have haccepts : Accepts s r rest := ⟨hreset, hwait, hdec, by rw [h, hnext]⟩
    obtain ⟨t, hserve, hfac, hpend⟩ := serve_of_not_isDispatcher hr (acceptRequest rest s)
    refine ⟨r, rest, t, haccepts, hr, (step_of_accepts haccepts).trans hserve, hfac, ?_⟩
    rw [hpend, acceptRequest_pending, filter_isDispatcher_of_nextRequest hnext hr]

end Sys2Proof.Machine
end

section
/-! PROOFS. `Compare` and its four sub-operations (42_compare.md R140 to R146). -/

namespace Sys2Proof.Machine

/-! ## The comparison of a buffer -/

/-- The result byte of a decided condition (R145). -/
theorem compareResult_decide (cfg : Config) (p : Prop) [Decidable p] :
    compareResult cfg (decide p) = [if p then cfg.cmpTrue else cfg.cmpFalse] := by
  by_cases hp : p <;> simp [compareResult, hp]

theorem compareBuffer_equal (buffer : List Byte) (s : State) :
    compareBuffer .equal buffer s = completed s
      [if (decodeTwo buffer).1.toInt = (decodeTwo buffer).2.toInt
        then s.cfg.cmpTrue else s.cfg.cmpFalse] := by
  rw [compareBuffer, returnResult_eq_completed, compareHolds, compareResult_decide]

theorem compareBuffer_notEqual (buffer : List Byte) (s : State) :
    compareBuffer .notEqual buffer s = completed s
      [if (decodeTwo buffer).1.toInt = (decodeTwo buffer).2.toInt
        then s.cfg.cmpFalse else s.cfg.cmpTrue] := by
  rw [compareBuffer, returnResult_eq_completed, compareHolds, compareResult_decide, ite_not]

theorem compareBuffer_lessThan (buffer : List Byte) (s : State) :
    compareBuffer .lessThan buffer s = completed s
      [if (decodeTwo buffer).1.toInt < (decodeTwo buffer).2.toInt
        then s.cfg.cmpTrue else s.cfg.cmpFalse] := by
  rw [compareBuffer, returnResult_eq_completed, compareHolds, compareResult_decide]

theorem compareBuffer_greaterThan (buffer : List Byte) (s : State) :
    compareBuffer .greaterThan buffer s = completed s
      [if (decodeTwo buffer).2.toInt < (decodeTwo buffer).1.toInt
        then s.cfg.cmpTrue else s.cfg.cmpFalse] := by
  rw [compareBuffer, returnResult_eq_completed, compareHolds, compareResult_decide]

/-- R140's length fault, as the state claims speak of: its pair is (CPU, 4). -/
theorem raiseFault_compareArity (s : State) : raiseFault .compareArity s = trapped s .cpu 4 := by
  rw [raiseFault_eq_trapped, faultPair]

/-- R140's selector fault: its pair is (CPU, 5). -/
theorem raiseFault_compareSelector (s : State) :
    raiseFault .compareSelector s = trapped s .cpu 5 := by
  rw [raiseFault_eq_trapped, faultPair]

/-! ## The sub-operation rows -/

theorem exec_compareEqual (buffer : List Byte) (s : State) :
    exec (.compareEqual buffer) s = compareSub .equal buffer s := rfl

theorem exec_compareNotEqual (buffer : List Byte) (s : State) :
    exec (.compareNotEqual buffer) s = compareSub .notEqual buffer s := rfl

theorem exec_compareLessThan (buffer : List Byte) (s : State) :
    exec (.compareLessThan buffer) s = compareSub .lessThan buffer s := rfl

theorem exec_compareGreaterThan (buffer : List Byte) (s : State) :
    exec (.compareGreaterThan buffer) s = compareSub .greaterThan buffer s := rfl

/-- The selector counts for the length, so a buffer of two bytes passes the check (R140). -/
theorem compareSub_of_two_le {s : State} (hs : s.fac.halted = false) (op : CompareOp)
    {buffer : List Byte} (h : 2 ≤ buffer.length) :
    compareSub op buffer s = .next (compareBuffer op buffer s) := by
  rw [compareSub, whileRunning_of_running hs, if_neg (by omega)]

theorem compareSub_of_lt_two {s : State} (hs : s.fac.halted = false) (op : CompareOp)
    {buffer : List Byte} (h : buffer.length < 2) :
    compareSub op buffer s = .next (trapped s .cpu 4) := by
  rw [compareSub, whileRunning_of_running hs, if_pos (by omega), raiseFault_compareArity]

/-- Settles O20: past the length check each row is the comparison of its own sub-operation. -/
theorem compareSubOperationResults : Obligations.CompareSubOperationResults := by
  rintro buffer s _ _ hs rfl rfl
  refine ⟨fun hlen => ?whole, fun hlen => ?short⟩
  case whole =>
    rw [exec_compareEqual, exec_compareNotEqual, exec_compareLessThan, exec_compareGreaterThan]
    simp only [compareSub_of_two_le hs _ hlen, compareBuffer_equal, compareBuffer_notEqual,
      compareBuffer_lessThan, compareBuffer_greaterThan, and_self]
  case short =>
    have fault (op : CompareOp) := compareSub_of_lt_two hs op hlen
    exact ⟨fault .equal, fault .notEqual, fault .lessThan, fault .greaterThan⟩

/-! ## The whole parameter sequence -/

theorem exec_compare_of_running {s : State} (hs : s.fac.halted = false) (params : List Byte) :
    exec (.compare params) s = .next (compareParams params s) :=
  whileRunning_of_running hs

/-- R81: the selectors 4 to 255 name no sub-operation. -/
theorem compareOp_of_four_le {sel : Byte} (h : 4 ≤ sel.toNat) : compareOp sel = none := by
  unfold compareOp
  split
  case h_5 => rfl
  all_goals omega

/-- The length check comes before the selector is looked at (R146). -/
theorem compareParams_of_lt_three {params : List Byte} (h : params.length < 3) (s : State) :
    compareParams params s = trapped s .cpu 4 := by
  rw [compareParams, if_pos h, raiseFault_compareArity]

/-- Past the length check, an illegal selector faults (R146). -/
theorem compareParams_of_illegal_selector {sel : Byte} {buffer : List Byte}
    (hlen : 2 ≤ buffer.length) (hsel : compareOp sel = none) (s : State) :
    compareParams (sel :: buffer) s = trapped s .cpu 5 := by
  have hwhole : ¬ (sel :: buffer).length < 3 := by rw [List.length_cons]; omega
  simp only [compareParams, if_neg hwhole, List.getD_cons_zero, hsel, raiseFault_compareSelector]

/-- Past both checks, the sub-operation compares the bytes after the selector (R140). -/
theorem compareParams_of_selector {sel : Byte} {op : CompareOp} {buffer : List Byte}
    (hlen : 2 ≤ buffer.length) (hsel : compareOp sel = some op) (s : State) :
    compareParams (sel :: buffer) s = compareBuffer op buffer s := by
  have hwhole : ¬ (sel :: buffer).length < 3 := by rw [List.length_cons]; omega
  simp only [compareParams, if_neg hwhole, List.getD_cons_zero, hsel, List.drop_one, List.tail_cons]

/-- Settles O21: the length, then `compareOp` of the selector, then the comparison it names. -/
theorem compareChecksThenCompares : Obligations.CompareChecksThenCompares := by
  intro params s hs
  rw [exec_compare_of_running hs]
  refine ⟨fun hlen => by rw [compareParams_of_lt_three hlen], ?_⟩
  rintro sel buffer _ _ rfl hlen rfl rfl
  have selects {op : CompareOp} (hsel : compareOp sel = some op) :=
    compareParams_of_selector hlen hsel s
  refine ⟨fun h => ?illegal, fun h => ?equal, fun h => ?notEqual, fun h => ?lessThan,
    fun h => ?greaterThan⟩
  case illegal => rw [compareParams_of_illegal_selector hlen (compareOp_of_four_le h)]
  case equal => rw [selects (op := .equal) (by simp [compareOp, h]), compareBuffer_equal]
  case notEqual => rw [selects (op := .notEqual) (by simp [compareOp, h]), compareBuffer_notEqual]
  case lessThan => rw [selects (op := .lessThan) (by simp [compareOp, h]), compareBuffer_lessThan]
  case greaterThan =>
    rw [selects (op := .greaterThan) (by simp [compareOp, h]), compareBuffer_greaterThan]

end Sys2Proof.Machine
end

section
/-! PROOFS. The two dispatcher commands, REPORT_FATAL and HALT (43_interrupt_system.md R152, R153). -/

namespace Sys2Proof.Machine

/-- R132: a request on a dispatcher port is accepted only while the halt latch is clear. -/
theorem halted_eq_false_of_accepts {s : State} {r : Request} {rest : List Request}
    (h : Accepts s r rest) (hr : r.isDispatcher = true) : s.fac.halted = false := by
  obtain ⟨-, -, -, hnext⟩ := h
  obtain ⟨hstep, -⟩ := nextRequest_some hnext
  simpa [hr] using hstep

/-- R62, R222: delivery appends one error call and one halt(1) call, and changes nothing besides
the facade's record. -/
theorem deliverFault_eq (f : DispatcherFault) (s : State) :
    deliverFault f s = { s with
      fac := { log := s.fac.log ++
                 [.error (faultPair s.cfg f).1 (faultPair s.cfg f).2, .halt 1]
               halted := true, exitCode := 1 } } := by
  simp [deliverFault, facError, facHalt]

theorem reportFatal_of_running {s : State} (h : s.fac.halted = false) (code : Code) :
    reportFatal code s = .next { s with
      fac := { log := s.fac.log ++ [.error .kernel code, .halt 1], halted := true, exitCode := 1 }
      responses := s.responses ++ [.reportFatal] } := by
  rw [reportFatal, whileRunning_of_running h, deliverFault_eq]
  rfl

theorem haltCommand_of_running {s : State} (h : s.fac.halted = false) :
    haltCommand s = .next { s with
      fac := { log := s.fac.log ++ [.halt s.cfg.haltExitCode], halted := true,
               exitCode := s.cfg.haltExitCode }
      responses := s.responses ++ [.halt] } := by
  rw [haltCommand, whileRunning_of_running h]
  rfl

/-- Settles O27: a code of CODEW bits passes the port unchanged, and delivery does the rest. -/
theorem reportFatalForwardsTheCode : Obligations.ReportFatalForwardsTheCode := by
  intro s code rest hfits haccepts
  have hrunning : (acceptRequest rest s).fac.halted = false := by
    rw [acceptRequest_fac, halted_eq_false_of_accepts haccepts rfl]
  rw [step_of_accepts haccepts, serve, acceptRequest_cfg, codeAtPort_of_fits hfits,
    reportFatal_of_running hrunning]
  rfl

/-- Settles O28: the accepted command makes its one halt call. -/
theorem haltCommandMakesOneCall : Obligations.HaltCommandMakesOneCall := by
  intro s rest haccepts
  have hrunning : (acceptRequest rest s).fac.halted = false := by
    rw [acceptRequest_fac, halted_eq_false_of_accepts haccepts rfl]
  rw [step_of_accepts haccepts, serve, haltCommand_of_running hrunning]
  rfl

end Sys2Proof.Machine
end

section
/-! PROOFS. `Add`, `Subtract`, `Multiply` and `Divide` (44_arithmetic.md R165 to R176). -/

namespace Sys2Proof.Machine

/-! ## The common handler -/

/-- R165, R171: a computation that gives a word completes with its four bytes. -/
theorem arith_of_ok {compute : Word → Word → Except DispatcherFault Word} {params : List Byte}
    {s : State} {v : Word} (hs : s.fac.halted = false)
    (h : compute (decodeTwo params).1 (decodeTwo params).2 = .ok v) :
    arith compute params s = .next (completed s (le32 v)) := by
  simp only [arith, whileRunning_of_running hs, h, returnResult_eq_completed]

/-- R222: a computation that raises traps with the pair of its fault. -/
theorem arith_of_error {compute : Word → Word → Except DispatcherFault Word} {params : List Byte}
    {s : State} {f : DispatcherFault} (hs : s.fac.halted = false)
    (h : compute (decodeTwo params).1 (decodeTwo params).2 = .error f) :
    arith compute params s = .next (trapped s (faultPair s.cfg f).1 (faultPair s.cfg f).2) := by
  simp only [arith, whileRunning_of_running hs, h, raiseFault_eq_trapped]

/-! ## `wrap32` is the signed reduction, and takes sums, differences and products to the word's -/

theorem wrap32_toInt (v : Int) : (wrap32 v).toInt = v.bmod 4294967296 :=
  BitVec.toInt_ofInt v

theorem wrap32_toInt_add (a b : Word) : wrap32 (a.toInt + b.toInt) = a + b := by
  rw [wrap32, BitVec.ofInt_add, BitVec.ofInt_toInt, BitVec.ofInt_toInt]

theorem wrap32_toInt_sub (a b : Word) : wrap32 (a.toInt - b.toInt) = a - b :=
  BitVec.eq_of_toInt_eq ((wrap32_toInt _).trans BitVec.toInt_sub.symm)

theorem wrap32_toInt_mul (a b : Word) : wrap32 (a.toInt * b.toInt) = a * b := by
  rw [wrap32, BitVec.ofInt_mul, BitVec.ofInt_toInt, BitVec.ofInt_toInt]

/-! ## The three opcodes without a fault -/

/-- R170: an exact integer operation reduced by `wrap32` completes on every parameter sequence, and
where it reduces to the word operation `onWords`, that is what a canonical packing gives. -/
theorem arith_wrap32 {onInts : Int → Int → Int} {onWords : Word → Word → Word}
    (hwrap : ∀ a b : Word, wrap32 (onInts a.toInt b.toInt) = onWords a b)
    {s : State} (hs : s.fac.halted = false) :
    (∀ params : List Byte, ∃ v : Word,
      arith (fun a b => .ok (wrap32 (onInts a.toInt b.toInt))) params s =
        .next (completed s (le32 v)) ∧
      v.toInt = (onInts (decodeTwo params).1.toInt (decodeTwo params).2.toInt).bmod 4294967296) ∧
    (∀ a b : Word, sep ∉ le32 a →
      arith (fun a b => .ok (wrap32 (onInts a.toInt b.toInt))) (pack a b) s =
        .next (completed s (le32 (onWords a b)))) := by
  refine ⟨fun params => ⟨_, arith_of_ok hs rfl, wrap32_toInt _⟩, fun a b ha => ?packed⟩
  case packed => exact arith_of_ok hs (by rw [decodeTwo_pack ha, hwrap])

/-- Settles O13: the arm of `Add` is that handler by definition, and the sum of the operands reduces
to the sum of the words. -/
theorem addReturnsWrappedSum : Obligations.AddReturnsWrappedSum :=
  fun _ hs => arith_wrap32 wrap32_toInt_add hs

/-- Settles O14: so does the difference, operand A the minuend. -/
theorem subtractReturnsWrappedDifference : Obligations.SubtractReturnsWrappedDifference :=
  fun _ hs => arith_wrap32 wrap32_toInt_sub hs

/-- Settles O15: so does the product. -/
theorem multiplyReturnsWrappedProduct : Obligations.MultiplyReturnsWrappedProduct :=
  fun _ hs => arith_wrap32 wrap32_toInt_mul hs

/-! ## `Divide` -/

/-- R169: the arm of `Divide` is the common handler on `div32` under the state's own parameters. -/
theorem exec_divide (params : List Byte) (s : State) :
    exec (.divide params) s = arith (div32 s.cfg) params s := rfl

theorem exec_divide_of_ok {params : List Byte} {s : State} {v : Word} (hs : s.fac.halted = false)
    (h : div32 s.cfg (decodeTwo params).1 (decodeTwo params).2 = .ok v) :
    exec (.divide params) s = .next (completed s (le32 v)) := by
  rw [exec_divide, arith_of_ok hs h]

theorem exec_divide_of_error {params : List Byte} {s : State} {f : DispatcherFault}
    (hs : s.fac.halted = false)
    (h : div32 s.cfg (decodeTwo params).1 (decodeTwo params).2 = .error f) :
    exec (.divide params) s = .next (trapped s (faultPair s.cfg f).1 (faultPair s.cfg f).2) := by
  rw [exec_divide, arith_of_error hs h]

/-- R172: the divisor is tested first. -/
theorem div32_of_zero (cfg : Config) (a : Word) {b : Word} (hb : b.toInt = 0) :
    div32 cfg a b = .error .divideByZero := by
  rw [div32, if_pos hb]

/-- R174: under DIV_OVF = wrap the overflow pair gives the wrapped 2147483648. -/
theorem div32_overflow_wrap {cfg : Config} {a b : Word} (ha : a.toInt = -2147483648)
    (hb : b.toInt = -1) (hcfg : cfg.divOvf = .wrap) :
    div32 cfg a b = .ok (BitVec.intMin 32) := by
  rw [div32, if_neg (by omega), if_pos ⟨ha, hb⟩, hcfg]
  rfl

/-- R174: under DIV_OVF = fault the overflow pair raises. -/
theorem div32_overflow_fault {cfg : Config} {a b : Word} (ha : a.toInt = -2147483648)
    (hb : b.toInt = -1) (hcfg : cfg.divOvf = .fault) :
    div32 cfg a b = .error .divideOverflow := by
  rw [div32, if_neg (by omega), if_pos ⟨ha, hb⟩, hcfg]

/-- R169: every other pair has the quotient of DIV_ROUND. -/
theorem div32_of_regular (cfg : Config) {a b : Word} (hb : b.toInt ≠ 0)
    (hovf : ¬ (a.toInt = -2147483648 ∧ b.toInt = -1)) :
    div32 cfg a b = .ok (wrap32 (quotient cfg.divRound a.toInt b.toInt)) := by
  rw [div32, if_neg hb, if_neg hovf]

/-- Settles O17: both hypotheses make the unpacked divisor 0. -/
theorem divideByZeroTraps : Obligations.DivideByZeroTraps := by
  refine ⟨rfl, fun params s hs hzero => ?_⟩
  have hb : (decodeTwo params).2.toInt = 0 := by
    obtain hb | hsep := hzero
    · exact hb
    · rw [decodeTwo_of_not_mem hsep, BitVec.toInt_zero]
  exact exec_divide_of_error hs (div32_of_zero s.cfg _ hb)

/-- Settles O18: each setting of DIV_OVF, with DivideOverflow's pair that of DivideByZero. -/
theorem divideOverflowPairWrapsOrTraps : Obligations.DivideOverflowPairWrapsOrTraps := by
  refine ⟨rfl, fun params s hs ha hb => ⟨fun hcfg => ?wrap, fun hcfg => ?fault⟩⟩
  case wrap => exact exec_divide_of_ok hs (div32_overflow_wrap ha hb hcfg)
  case fault => exact exec_divide_of_error hs (div32_overflow_fault ha hb hcfg)

/-! ## The same operand twice -/

/-- A number divides itself exactly, so no rounding rule is asked. -/
theorem quotient_self (round : DivRound) {a : Int} (ha : a ≠ 0) : quotient round a a = 1 := by
  have toward : quotientTowardZero a a = 1 := by
    rw [quotientTowardZero, if_pos rfl, Nat.div_self (Int.natAbs_pos.mpr ha), Nat.cast_one]
  cases round with
  | towardZero => exact toward
  | floor => exact Int.fdiv_self ha
  | unconstrained => rw [quotient, if_pos (Int.emod_self), toward]

/-- R176: the pair `a, a` is never the overflow pair. -/
theorem div32_self (cfg : Config) {a : Word} (ha : a ≠ 0#32) : div32 cfg a a = .ok 1#32 := by
  have hne : a.toInt ≠ 0 := fun h => ha (BitVec.toInt_inj.mp h)
  rw [div32_of_regular cfg hne (by omega), quotient_self cfg.divRound hne]
  rfl

/-- Settles O19: the three laws above on `pack a a`, and the quotient of a number by itself. -/
theorem sameOperandTwice : Obligations.SameOperandTwice := by
  intro a s hs ha
  refine ⟨?add, ?subtract, ?multiply, fun hne => ?quotient, fun hzero => ?zero⟩
  case add =>
    obtain ⟨-, packed⟩ := addReturnsWrappedSum s hs
    rw [packed a a ha, two_mul]
  case subtract =>
    obtain ⟨-, packed⟩ := subtractReturnsWrappedDifference s hs
    rw [packed a a ha, BitVec.sub_self]
  case multiply =>
    obtain ⟨-, packed⟩ := multiplyReturnsWrappedProduct s hs
    exact packed a a ha
  case quotient => exact exec_divide_of_ok hs (by rw [decodeTwo_pack ha, div32_self s.cfg hne])
  case zero =>
    obtain ⟨-, traps⟩ := divideByZeroTraps
    exact traps _ s hs (.inl (by rw [decodeTwo_pack ha, hzero, BitVec.toInt_zero]))

end Sys2Proof.Machine
end

section
/-! PROOFS. The framer's encoder: `encodeProgram` is `frames`, and the ENC transaction
(45_framer.md R187, R188, R190). -/

namespace Sys2Proof.Machine

/-! ## The frames of a program -/

@[simp] theorem frames_nil : frames [] = [] := rfl

@[simp] theorem frames_cons (v : InstrValue) (vs : Program) :
    frames (v :: vs) = v.toFrame.bytes ++ frames vs := rfl

@[simp] theorem frames_concat (program : Program) (v : InstrValue) :
    frames (program ++ [v]) = frames program ++ v.toFrame.bytes := by
  simp [frames]

/-! ## The encoder -/

theorem encodeOne_of_table {v : InstrValue} (h : (tagOf v.op).isSome = true) :
    encodeOne v = .ok v.toFrame.bytes :=
  encodeOne_ok_iff.mpr ⟨h, rfl⟩

theorem encodeOne_of_no_entry {v : InstrValue} (h : 13 ≤ v.op) :
    encodeOne v = .error .encodeNoEntry := by
  simp [encodeOne, tagOf_eq_none_iff.mpr h]

/-- `EncodeNoEntry` is the encoder's only fault. -/
theorem encodeOne_error {v : InstrValue} {e : FramerFault} (h : encodeOne v = .error e) :
    e = .encodeNoEntry := by
  unfold encodeOne at h
  split at h <;> cases h
  rfl

/-- R187: a program of table numbers is encoded to its frames. -/
theorem encodeProgram_of_table {program : Program}
    (h : ∀ v ∈ program, (tagOf v.op).isSome = true) :
    encodeProgram program = .ok (frames program) := by
  induction program with
  | nil => rfl
  | cons v vs ih =>
    obtain ⟨hv, hvs⟩ := List.forall_mem_cons.mp h
    simp [encodeProgram, encodeOne_of_table hv, ih hvs]

/-- R190: one number outside the table, wherever it stands, and there is no stream at all. -/
theorem encodeProgram_of_no_entry {program : Program} (h : ∃ v ∈ program, 13 ≤ v.op) :
    encodeProgram program = .error .encodeNoEntry := by
  induction program with
  | nil => simp at h
  | cons v vs ih =>
    rw [encodeProgram]
    cases hone : encodeOne v with
    | error e => rw [encodeOne_error hone]
    | ok bytes =>
      have hvs : ∃ v ∈ vs, 13 ≤ v.op := by
        refine ((List.exists_mem_cons_iff ..).mp h).resolve_left fun hv => ?_
        rw [encodeOne_of_no_entry hv] at hone
        cases hone
      rw [ih hvs]

/-! ## The ENC transaction -/

/-- The step that accepts ENC adds the encoder's answer to the outputs, as long as the numbers pass
the port. -/
theorem step_of_accepts_enc {s : State} {program : Program} {rest : List Request}
    (ha : Accepts s (.enc program) rest) (hport : ∀ v ∈ program, v.op < 2 ^ s.cfg.opw) :
    step s = .next { s with
      pending := rest
      responses := s.responses ++ [encResponse (encodeProgram program)] } := by
  have hprogram : programAtPort (acceptRequest rest s).cfg program = program :=
    programAtPort_of_lt hport
  rw [step_of_accepts ha, serve, encTransaction, hprogram]
  rfl

/-- Settles O46: the step delivers what `encodeProgram` answers, in each of its two cases. -/
theorem encDeliversWholeStreamOrFault : Obligations.EncDeliversWholeStreamOrFault := by
  intro s program rest ha hport
  rw [step_of_accepts_enc ha hport]
  refine ⟨fun htable => ?_, fun hout => ?_⟩
  · rw [encodeProgram_of_table fun v hv => tagOf_isSome_iff.mpr (htable v hv), encResponse]
  · rw [encodeProgram_of_no_entry hout, encResponse]

end Sys2Proof.Machine
end

section
/-! PROOFS. The framer's decoder: its transitions, the round trip, and the streams it accepts
(45_framer.md R191 to R208). -/

namespace Sys2Proof.Machine

/-! ## One byte: the transition table of R191 -/

section Transitions

variable {paramMax : Option Nat} {f : Framer} {x : Byte}

theorem byteStep_idle_sof (hf : f.ds = .idle) :
    byteStep paramMax f sof = .ok { f with ds := .readingOpcode } := by
  simp [byteStep, hf]

theorem byteStep_idle_eof (hf : f.ds = .idle) :
    byteStep paramMax f eof = .error .decodeStrayEnd := by
  simp [byteStep, hf]

theorem byteStep_idle_stray (hf : f.ds = .idle) (hsof : x ≠ sof) (heof : x ≠ eof) :
    byteStep paramMax f x = .error .decodeStrayByte := by
  rw [byteStep, hf]
  exact (if_neg hsof).trans (if_neg heof)

theorem byteStep_readingOpcode_opbyte (hf : f.ds = .readingOpcode) (tag : Opcode) :
    byteStep paramMax f (opbyte tag) =
      .ok { f with ds := .accumulating, curOp := tag, curParams := [] } := by
  simp [byteStep, hf]

theorem byteStep_readingOpcode_unknown (hf : f.ds = .readingOpcode) (hx : 13 ≤ x.toNat) :
    byteStep paramMax f x = .error .decodeUnknownOpcode := by
  simp [byteStep, hf, optag_eq_none_iff.mpr hx]

theorem byteStep_accumulating_eof (hf : f.ds = .accumulating) :
    byteStep paramMax f eof = .ok { f with ds := .idle, out := f.out ++ [openInstr f] } := by
  simp [byteStep, hf]

theorem byteStep_accumulating_full (hf : f.ds = .accumulating) (hx : x ≠ eof)
    (hfull : paramsFull paramMax f.curParams = true) :
    byteStep paramMax f x = .error .paramOverflow := by
  rw [byteStep, hf]
  exact (if_neg hx).trans (if_pos hfull)

/-- R208: only a byte beyond PARAM_MAX overflows. -/
theorem paramsFull_of_byteStep_paramOverflow
    (h : byteStep paramMax f x = .error .paramOverflow) :
    paramsFull paramMax f.curParams = true := by
  unfold byteStep at h
  split at h
  case h_1 =>
    split at h
    · cases h
    · split at h <;> cases h
  case h_2 => split at h <;> cases h
  case h_3 =>
    split at h
    · cases h
    · split at h
      · assumption
      · cases h

end Transitions

/-! ## A stream, byte by byte and part by part -/

theorem runBytes_cons_of_ok {paramMax : Option Nat} {f g : Framer} {x : Byte}
    (h : byteStep paramMax f x = .ok g) (xs : List Byte) :
    runBytes paramMax f (x :: xs) = runBytes paramMax g xs := by
  rw [runBytes, h]

/-- R202: the fault of a byte is the answer, whatever follows. -/
theorem runBytes_cons_of_error {paramMax : Option Nat} {f : Framer} {x : Byte} {e : FramerFault}
    (h : byteStep paramMax f x = .error e) (xs : List Byte) :
    runBytes paramMax f (x :: xs) = .error e := by
  rw [runBytes, h]

theorem runBytes_append_of_ok {paramMax : Option Nat} {f g : Framer} {xs : List Byte}
    (h : runBytes paramMax f xs = .ok g) (ys : List Byte) :
    runBytes paramMax f (xs ++ ys) = runBytes paramMax g ys := by
  rw [runBytes_append, h]

/-- A fault of a run is the fault of one of its bytes. -/
theorem exists_byteStep_of_runBytes_error {paramMax : Option Nat} {f : Framer} {xs : List Byte}
    {e : FramerFault} (h : runBytes paramMax f xs = .error e) :
    ∃ g x, byteStep paramMax g x = .error e := by
  induction xs generalizing f with
  | nil => cases h
  | cons x xs ih =>
    cases hstep : byteStep paramMax f x with
    | error e' =>
      rw [runBytes_cons_of_error hstep] at h
      cases h
      exact ⟨f, x, hstep⟩
    | ok g =>
      rw [runBytes_cons_of_ok hstep] at h
      exact ih h

theorem decodeStream_of_runBytes_error {paramMax : Option Nat} {stream : List Byte}
    {e : FramerFault} (h : runBytes paramMax .reset stream = .error e) :
    decodeStream paramMax stream = .error e := by
  rw [decodeStream, h]

/-- The end of a stream is an Ok anywhere but right after a frame start (R199 to R201). -/
theorem finishStream_ok_iff {f : Framer} {program : Program} :
    finishStream f = .ok program ↔ f.ds ≠ .readingOpcode ∧ f.out = program := by
  unfold finishStream
  split <;> simp [*]

theorem decodeStream_ok_iff {paramMax : Option Nat} {stream : List Byte} {program : Program} :
    decodeStream paramMax stream = .ok program ↔
      ∃ f, runBytes paramMax .reset stream = .ok f ∧ f.ds ≠ .readingOpcode ∧ f.out = program := by
  unfold decodeStream
  split <;> simp [*, finishStream_ok_iff]

/-! ## From a program to its stream and back -/

/-- The frames of loadable values are closed into the output one after another. -/
theorem runBytes_frames {paramMax : Option Nat} (f : Framer) (hf : f.ds = .idle)
    {program : Program} (h : ∀ v ∈ program, Loadable paramMax v) :
    ∃ g, runBytes paramMax f (frames program) = .ok g ∧ g.ds = .idle ∧
      g.out = f.out ++ program := by
  induction program generalizing f with
  | nil => exact ⟨f, rfl, hf, (List.append_nil _).symm⟩
  | cons v vs ih =>
    obtain ⟨hv, hvs⟩ := List.forall_mem_cons.mp h
    obtain ⟨g, hrun, hg, hout⟩ := runBytes_frame f hf hv
    obtain ⟨g', hrun', hg', hout'⟩ := ih g hg hvs
    refine ⟨g', ?_, hg', by simp [hout', hout]⟩
    rw [frames_cons, runBytes_append_of_ok hrun, hrun']

theorem encodeProgram_of_loadable {paramMax : Option Nat} {program : Program}
    (h : ∀ v ∈ program, Loadable paramMax v) : encodeProgram program = .ok (frames program) :=
  encodeProgram_of_table fun v hv => (h v hv).left

/-- Settles O47: the stream is `frames program`, closed frame by frame. -/
theorem storableProgramRoundTrips : Obligations.StorableProgramRoundTrips := by
  intro paramMax program h
  obtain ⟨f, hrun, hf, hout⟩ := runBytes_frames Framer.reset rfl h
  refine ⟨frames program, encodeProgram_of_loadable h, decodeStream_ok_iff.mpr ⟨f, hrun, ?_, ?_⟩⟩
  · simp [hf]
  · simpa [Framer.reset] using hout

/-! ## From an accepted stream to its program and back -/

/-- What the bytes consumed so far are, given the decode state they led to: the frames of the closed
instructions, then as much of a frame as is open. -/
def Consumed (paramMax : Option Nat) (bytes : List Byte) (f : Framer) : Prop :=
  (∀ v ∈ f.out, Loadable paramMax v) ∧
  match f.ds with
  | .idle => bytes = frames f.out
  | .readingOpcode => bytes = frames f.out ++ [sof]
  | .accumulating => Loadable paramMax (openInstr f) ∧
      bytes = frames f.out ++ sof :: opbyte f.curOp :: f.curParams

theorem consumed_reset (paramMax : Option Nat) : Consumed paramMax [] .reset := by
  simp [Consumed, Framer.reset]

/-- The frame of the open instruction. -/
theorem openInstr_bytes (f : Framer) :
    (openInstr f).toFrame.bytes = sof :: opbyte f.curOp :: (f.curParams ++ [eof]) := by
  rw [toFrame_of_tagOf (tagOf_opbyte f.curOp)]
  rfl

theorem loadable_openInstr_iff {paramMax : Option Nat} {f : Framer} :
    Loadable paramMax (openInstr f) ↔ eof ∉ f.curParams ∧ Fits paramMax f.curParams := by
  simp [Loadable, openInstr]

theorem fits_nil (paramMax : Option Nat) : Fits paramMax [] := by
  cases paramMax <;> simp [Fits, fits]

/-- PARAM_MAX still holds after one more byte, where it was not yet reached. -/
theorem fits_concat {paramMax : Option Nat} {params : List Byte} (h : Fits paramMax params)
    (hfull : paramsFull paramMax params = false) (x : Byte) : Fits paramMax (params ++ [x]) := by
  cases paramMax with
  | none => rfl
  | some m =>
    simp only [Fits, fits, paramsFull, decide_eq_true_eq, decide_eq_false_iff_not] at *
    simp only [List.length_append, List.length_singleton]
    omega

/-- Each row of the transition table without a fault adds its byte to the frames consumed. -/
theorem consumed_append_of_byteStep {paramMax : Option Nat} {bytes : List Byte} {f g : Framer} {x : Byte}
    (hc : Consumed paramMax bytes f) (h : byteStep paramMax f x = .ok g) :
    Consumed paramMax (bytes ++ [x]) g := by
  obtain ⟨hout, hbytes⟩ := hc
  obtain ⟨hf, rfl, rfl⟩ | ⟨hf, tag, htag, rfl⟩ | ⟨hf, rfl, rfl⟩ | ⟨hf, hx, hfull, rfl⟩ :=
    byteStep_ok h <;> simp only [hf] at hbytes
  case inl => exact ⟨hout, by simp [hbytes]⟩
  case inr.inl =>
    refine ⟨hout, loadable_openInstr_iff.mpr ⟨by simp, fits_nil paramMax⟩, ?_⟩
    simp [hbytes, opbyte_of_optag htag]
  case inr.inr.inl =>
    obtain ⟨hopen, rfl⟩ := hbytes
    exact ⟨List.forall_mem_append.mpr ⟨hout, List.forall_mem_singleton.mpr hopen⟩,
      by simp [openInstr_bytes]⟩
  case inr.inr.inr =>
    obtain ⟨hopen, rfl⟩ := hbytes
    obtain ⟨hn, hfit⟩ := loadable_openInstr_iff.mp hopen
    refine ⟨hout, ?_⟩
    simp only [hf]
    refine ⟨loadable_openInstr_iff.mpr ⟨?_, fits_concat hfit hfull x⟩, by simp⟩
    simpa using ⟨hn, Ne.symm hx⟩

theorem consumed_append_of_runBytes {paramMax : Option Nat} {bytes xs : List Byte} {f g : Framer}
    (hc : Consumed paramMax bytes f) (h : runBytes paramMax f xs = .ok g) :
    Consumed paramMax (bytes ++ xs) g := by
  induction xs generalizing f bytes with
  | nil => cases h; simpa using hc
  | cons x xs ih =>
    cases hstep : byteStep paramMax f x with
    | error e => rw [runBytes_cons_of_error hstep] at h; cases h
    | ok f' =>
      rw [runBytes_cons_of_ok hstep] at h
      simpa using ih (consumed_append_of_byteStep hc hstep) h

/-- R207, R209: what a stream without a fault consists of. -/
theorem consumed_of_runBytes {paramMax : Option Nat} {stream : List Byte} {f : Framer}
    (h : runBytes paramMax .reset stream = .ok f) : Consumed paramMax stream f :=
  consumed_append_of_runBytes (consumed_reset paramMax) h

/-- With the decoder idle at its end, a stream is the frames of what it decodes to. -/
theorem eq_frames_of_runBytes_idle {paramMax : Option Nat} {stream : List Byte} {f : Framer}
    (h : runBytes paramMax .reset stream = .ok f) (hf : f.ds = .idle) :
    stream = frames f.out := by
  obtain ⟨-, hbytes⟩ := consumed_of_runBytes h
  simpa only [hf] using hbytes

/-- The stream of an accepted program, with its last frame dropped or not. -/
theorem encodeProgram_of_decodeStream_ok {paramMax : Option Nat} {stream : List Byte}
    {program : Program} (h : decodeStream paramMax stream = .ok program) :
    ∃ f, runBytes paramMax Framer.reset stream = .ok f ∧
      ((f.ds = .idle ∧ encodeProgram program = .ok stream) ∨
       (f.ds = .accumulating ∧ ∃ bytes tail, encodeProgram program = .ok bytes ∧
          stream = bytes ++ tail ∧ OpenFrame paramMax tail)) := by
  obtain ⟨f, hrun, hne, rfl⟩ := decodeStream_ok_iff.mp h
  obtain ⟨hout, hbytes⟩ := consumed_of_runBytes hrun
  have henc : encodeProgram f.out = .ok (frames f.out) := encodeProgram_of_loadable hout
  refine ⟨f, hrun, ?_⟩
  cases hf : f.ds with
  | idle => simp only [hf] at hbytes; exact .inl ⟨rfl, hbytes ▸ henc⟩
  | readingOpcode => exact absurd hf hne
  | accumulating =>
    simp only [hf] at hbytes
    obtain ⟨hopen, hstream⟩ := hbytes
    exact .inr ⟨rfl, _, _, henc, hstream, opbyte f.curOp, f.curParams, rfl, hopen⟩

/-- Two streams that decode alike, with nothing dropped, are the same frames. -/
theorem eq_of_decodeStream_eq {paramMax : Option Nat} {s₁ s₂ : List Byte} {f₁ f₂ : Framer}
    {program : Program} (hrun₁ : runBytes paramMax .reset s₁ = .ok f₁) (hidle₁ : f₁.ds = .idle)
    (hrun₂ : runBytes paramMax .reset s₂ = .ok f₂) (hidle₂ : f₂.ds = .idle)
    (hdec₁ : decodeStream paramMax s₁ = .ok program)
    (hdec₂ : decodeStream paramMax s₂ = .ok program) : s₁ = s₂ := by
  have out_eq {s : List Byte} {f : Framer} (hrun : runBytes paramMax .reset s = .ok f)
      (hdec : decodeStream paramMax s = .ok program) : f.out = program := by
    rw [decodeStream, hrun] at hdec
    obtain ⟨-, hout⟩ := finishStream_ok_iff.mp hdec
    exact hout
  rw [eq_frames_of_runBytes_idle hrun₁ hidle₁, eq_frames_of_runBytes_idle hrun₂ hidle₂,
    out_eq hrun₁ hdec₁, out_eq hrun₂ hdec₂]

/-- Settles O48: what was consumed is the frames of the program and an open tail; the empty stream
and one opened `Add` both decode to the empty program. -/
theorem acceptedStreamEncodesBack : Obligations.AcceptedStreamEncodesBack :=
  ⟨fun _ _ _ => encodeProgram_of_decodeStream_ok,
   fun _ _ _ _ _ _ => eq_of_decodeStream_eq,
   [], [sof, opbyte .add], [], by decide, by decide, by decide⟩

/-! ## A frame end among the parameters -/

/-- R206: the embedded frame end closes the instruction with the parameters before it. -/
theorem runBytes_closed (paramMax : Option Nat) (tag : Opcode) {u : List Byte} (hn : eof ∉ u)
    (hfit : Fits paramMax u) :
    runBytes paramMax .reset (sof :: opbyte tag :: (u ++ [eof])) =
      .ok ⟨.idle, tag, u, [⟨(opbyte tag).toNat, u⟩]⟩ := by
  have hopen := runBytes_openFrame Framer.reset rfl (optag_opbyte tag) u hn hfit
  rw [← List.cons_append, ← List.cons_append, runBytes_append_of_ok hopen,
    runBytes_cons_of_ok (byteStep_accumulating_eof rfl)]
  rfl

/-- Settles O50: the closed instruction leaves the decoder idle, and each clause is the transition
of the byte after it, or of the two bytes. The real frame end is the byte where `w` has none. -/
theorem embeddedFrameEndMisframes : Obligations.EmbeddedFrameEndMisframes := by
  intro paramMax tag u w stream hn hfit rfl
  have hclosed := runBytes_closed paramMax tag hn hfit
  have hsplit : Frame.bytes ⟨opbyte tag, u ++ eof :: w⟩ =
      (sof :: opbyte tag :: (u ++ [eof])) ++ (w ++ [eof]) := by simp [Frame.bytes]
  have hfault {e : FramerFault}
      (h : runBytes paramMax ⟨.idle, tag, u, [⟨(opbyte tag).toNat, u⟩]⟩ (w ++ [eof]) = .error e) :
      decodeStream paramMax (Frame.bytes ⟨opbyte tag, u ++ eof :: w⟩) = .error e :=
    decodeStream_of_runBytes_error (by rw [hsplit, runBytes_append_of_ok hclosed, h])
  refine ⟨hclosed, ?empty, ?first⟩
  case empty =>
    rintro rfl
    exact hfault (runBytes_cons_of_error (byteStep_idle_eof rfl) [])
  case first =>
    rintro x w' rfl
    refine ⟨fun hx => ?strayEnd, fun hlo hhi => ?strayByte, fun hx hw' => ?realEnd,
      fun y w'' hx hw' => ⟨fun hy => ?unknown, fun spurious hy => ?spurious⟩⟩
    case strayEnd =>
      obtain rfl : x = eof := BitVec.eq_of_toNat_eq hx
      exact hfault (runBytes_cons_of_error (byteStep_idle_eof rfl) _)
    case strayByte =>
      exact hfault (runBytes_cons_of_error (byteStep_idle_stray rfl (by bv_omega) (by bv_omega)) _)
    case realEnd =>
      obtain rfl : x = sof := BitVec.eq_of_toNat_eq hx
      subst hw'
      refine hfault ((runBytes_cons_of_ok (byteStep_idle_sof rfl) _).trans ?_)
      exact runBytes_cons_of_error (byteStep_readingOpcode_unknown rfl (by decide)) []
    case unknown =>
      obtain rfl : x = sof := BitVec.eq_of_toNat_eq hx
      subst hw'
      refine hfault ((runBytes_cons_of_ok (byteStep_idle_sof rfl) _).trans ?_)
      exact runBytes_cons_of_error (byteStep_readingOpcode_unknown rfl hy) _
    case spurious =>
      have hbytes : sof :: opbyte tag :: (u ++ [eof, sof, opbyte spurious]) =
          (sof :: opbyte tag :: (u ++ [eof])) ++ [sof, opbyte spurious] := by simp
      rw [hbytes, runBytes_append_of_ok hclosed, runBytes_cons_of_ok (byteStep_idle_sof rfl),
        runBytes_cons_of_ok (byteStep_readingOpcode_opbyte rfl spurious)]
      rfl

/-! ## PARAM_MAX -/

/-- R208: the first byte beyond the bound faults, whatever follows. -/
theorem runBytes_of_length_gt {m : Nat} (f : Framer) (hf : f.ds = .idle) (tag : Opcode)
    {params : List Byte} (hn : eof ∉ params) (hlen : m < params.length) (rest : List Byte) :
    runBytes (some m) f (sof :: opbyte tag :: (params ++ rest)) = .error .paramOverflow := by
  obtain ⟨held, x, beyond, rfl, rfl⟩ :
      ∃ held x beyond, params = held ++ x :: beyond ∧ held.length = m :=
    ⟨params.take m, params[m], params.drop (m + 1), by simp, List.length_take_of_le hlen.le⟩
  simp only [List.mem_append, List.mem_cons, not_or] at hn
  obtain ⟨hheld, hx, -⟩ := hn
  have hopen := runBytes_openFrame (paramMax := some held.length) f hf (optag_opbyte tag) held hheld
    (by simp [Fits, fits])
  have hsplit : sof :: opbyte tag :: (held ++ x :: beyond ++ rest) =
      (sof :: opbyte tag :: held) ++ x :: (beyond ++ rest) := by simp
  rw [hsplit, runBytes_append_of_ok hopen]
  exact runBytes_cons_of_error (byteStep_accumulating_full rfl (Ne.symm hx) (by simp [paramsFull])) _

/-- Without a bound no stream overflows. -/
theorem decodeStream_unbounded_ne_paramOverflow (stream : List Byte) :
    decodeStream none stream ≠ .error .paramOverflow := by
  unfold decodeStream
  split
  case h_1 e hrun =>
    rintro ⟨⟩
    obtain ⟨g, x, hstep⟩ := exists_byteStep_of_runBytes_error hrun
    cases paramsFull_of_byteStep_paramOverflow hstep
  case h_2 f hrun => unfold finishStream; split <;> simp

/-- Settles O51: the frames before it leave the decoder idle for the frame that is too long. -/
theorem paramOverflowOnlyWithFiniteBound : Obligations.ParamOverflowOnlyWithFiniteBound := by
  refine ⟨fun m before tag params rest hbefore hn hlen => ?_,
    decodeStream_unbounded_ne_paramOverflow⟩
  obtain ⟨f, hrun, hf, -⟩ := runBytes_frames Framer.reset rfl hbefore
  apply decodeStream_of_runBytes_error
  rw [runBytes_append_of_ok hrun, runBytes_of_length_gt f hf tag hn hlen rest]

end Sys2Proof.Machine
end

section
/-! PROOFS. The facade's record under every step (60_exceptions.md R222, R226). -/

namespace Sys2Proof.Machine

/-! ## Facade calls after a log without a halt call -/

/-- A log of the right shape that holds no halt call holds interrupt calls only, and those may stand
before any events. -/
theorem logShape_append_of_no_halt {log : List FacEvent} (hshape : logShape log = true)
    (hhalt : ∀ k, FacEvent.halt k ∉ log) (calls : List FacEvent) :
    logShape (log ++ calls) = logShape calls := by
  fun_induction logShape log with
  | case1 => rfl
  | case2 code answer rest ih =>
    rw [List.cons_append, logShape]
    exact ih hshape fun k hk => hhalt k (List.mem_cons_of_mem _ hk)
  | case3 k => exact absurd List.mem_cons_self (hhalt k)
  | case4 c code k => simp at hhalt
  | case5 => cases hshape

/-- While the latch is clear there is no halt call in the log (R31). -/
theorem FacOk.halt_not_mem {f : Fac} (hf : FacOk f) (hrun : f.halted = false) (k : Code) :
    FacEvent.halt k ∉ f.log := by
  intro hk
  obtain ⟨-, hlatch⟩ := hf
  obtain ⟨hhalted, -⟩ := hlatch k hk
  simp [hrun] at hhalted

/-- The invariant's one argument: while the latch is clear, calls that would be a consistent record
by themselves keep the record consistent when they are added to it. -/
theorem FacOk.append_calls {f : Fac} (hf : FacOk f) (hrun : f.halted = false)
    {calls : List FacEvent} {halted : Bool} {exitCode : Code}
    (hcalls : FacOk ⟨calls, halted, exitCode⟩) :
    FacOk ⟨f.log ++ calls, halted, exitCode⟩ := by
  have hnone := hf.halt_not_mem hrun
  obtain ⟨hshape, -⟩ := hf
  obtain ⟨hcallsShape, hcallsLatch⟩ := hcalls
  refine ⟨(logShape_append_of_no_halt hshape hnone calls).trans hcallsShape, fun k hk => ?_⟩
  exact hcallsLatch k ((List.mem_append.mp hk).resolve_left (hnone k))

/-! ## The calls of the model -/

/-- R36: the record right after reset is consistent. -/
theorem facOk_reset : FacOk Fac.reset := ⟨rfl, fun _ hk => by cases hk⟩

/-- R151: an interrupt call by itself, whatever it leaves the latch at. -/
theorem facOk_interrupt (code : Byte) (answer : List Byte) (halted : Bool) (exitCode : Code) :
    FacOk ⟨[.interrupt code answer], halted, exitCode⟩ := ⟨rfl, by simp⟩

/-- R31: a halt call by itself. -/
theorem facOk_halt (k : Code) : FacOk ⟨[.halt k], true, k⟩ := ⟨rfl, by simp⟩

/-- R62: an error call, then halt(1). -/
theorem facOk_error_halt (c : Component) (k : Code) : FacOk ⟨[.error c k, .halt 1], true, 1⟩ :=
  ⟨rfl, by simp⟩

section Operations
variable {s : State}

theorem facInterrupt_keeps_facOk (hf : FacOk s.fac) (hrun : s.fac.halted = false) (code : Byte)
    (answer : List Byte × Bool) : FacOk (facInterrupt code answer s).fac :=
  hf.append_calls hrun (facOk_interrupt code answer.1 _ _)

theorem facHalt_keeps_facOk (hf : FacOk s.fac) (hrun : s.fac.halted = false) (k : Code) :
    FacOk (facHalt k s).fac :=
  hf.append_calls hrun (facOk_halt k)

theorem deliverFault_keeps_facOk (hf : FacOk s.fac) (hrun : s.fac.halted = false)
    (f : DispatcherFault) : FacOk (deliverFault f s).fac := by
  rw [deliverFault_eq]
  exact hf.append_calls hrun (facOk_error_halt _ _)

end Operations

/-! ## Transactions and steps -/

/-- R133: each call pattern of an EXEC transaction keeps the record consistent. -/
theorem execShape_keeps_facOk {s t : State} (hf : FacOk s.fac) (h : ExecShape s t) :
    FacOk t.fac := by
  obtain ⟨hrun, ⟨r, rfl⟩ | ⟨code, answer, -, rfl⟩ | ⟨code, -, rfl⟩ | ⟨f, -, rfl⟩⟩ := h
  · rwa [returnResult_fac]
  · rw [interruptCall_fac]
    exact facInterrupt_keeps_facOk hf hrun code answer
  · rwa [awaitAnswer_fac]
  · rw [raiseFault_fac]
    exact deliverFault_keeps_facOk hf hrun f

/-- Serving a request keeps the record consistent: DEC and ENC leave it, and the dispatcher's ports
serve only while the latch is clear (R132). -/
theorem serve_keeps_facOk {r : Request} {s t : State} (hf : FacOk s.fac)
    (h : serve r s = .next t) : FacOk t.fac := by
  obtain ⟨v, -, hexec⟩ | ⟨code, -, hrun, rfl⟩ | ⟨-, hrun, rfl⟩ | ⟨stream, -, rfl⟩ |
    ⟨program, -, rfl⟩ := serve_next h
  · exact execShape_keeps_facOk hf (execute_next hexec)
  · rw [respond_fac]
    exact deliverFault_keeps_facOk hf hrun _
  · rw [respond_fac]
    exact facHalt_keeps_facOk hf hrun _
  · rwa [decBegin_fac]
  · rwa [encTransaction_fac]

/-- R203: a byte of a DEC transaction leaves the facade's record. -/
theorem decByte_fac (x : Byte) (rest : List Byte) (s : State) : (decByte x rest s).fac = s.fac := by
  obtain ⟨f, -, h⟩ | ⟨e, -, h⟩ := decByte_cases x rest s
  · rw [h]
  · rw [h, decEnd_fac]

/-- Settles O33, by what one step can do: only an interrupt's answer and a served dispatcher request
call the facade, and both find the latch clear, the first by `WaitOk`. -/
theorem everyStepKeepsTheFacadeRecordConsistent :
    Obligations.EveryStepKeepsTheFacadeRecordConsistent := by
  intro s t hf hwait hstep
  obtain ⟨-, rfl⟩ | ⟨-, ⟨code, hcall, -, rfl⟩ | ⟨-, -, rfl⟩ | ⟨x, rest, -, -, rfl⟩ | ⟨-, -, rfl⟩ |
    ⟨-, -, -, rfl⟩ | ⟨r, rest, -, hserve⟩⟩ := step_next hstep
  · exact facOk_reset
  · obtain ⟨hrun, -⟩ := hwait (by simp [hcall])
    rw [answerInterrupt_fac]
    exact facInterrupt_keeps_facOk hf hrun code _
  · exact hf
  · rwa [decByte_fac]
  · rwa [decFinish, decEnd_fac]
  · exact hf
  · have haccept : FacOk (acceptRequest rest s).fac := by rwa [acceptRequest_fac]
    exact serve_keeps_facOk haccept hserve

end Sys2Proof.Machine
end

section
/-! PROOFS. The rows of the opcode table: frames, instruction values and rows correspond
(30_encoding.md R72, R75, R89). -/

namespace Sys2Proof

/-! ## The bits a row fixes above the bits it leaves free -/

theorem toNat_append_eq_add {m w : Nat} (hi : BitVec m) (low : BitVec w) :
    (hi ++ low).toNat = hi.toNat * 2 ^ w + low.toNat := by
  rw [BitVec.toNat_append, ← Nat.shiftLeft_add_eq_or_of_lt low.isLt, Nat.shiftLeft_eq]

theorem setWidth_append_right {m w : Nat} (hi : BitVec m) (low : BitVec w) :
    (hi ++ low).setWidth w = low := by
  rw [BitVec.setWidth_append, dif_pos le_rfl, BitVec.setWidth_eq]

theorem append_setWidth_of_div {m w : Nat} {hi : BitVec m} {op : BitVec (m + w)}
    (h : op.toNat / 2 ^ w = hi.toNat) : hi ++ op.setWidth w = op := by
  apply BitVec.eq_of_toNat_eq
  rw [toNat_append_eq_add, BitVec.toNat_setWidth, ← h, Nat.div_add_mod']

/-! ## The row of a frame -/

theorem ofFrame_opbyte (tag : Opcode) (params : List Byte) :
    Instr.ofFrame ⟨opbyte tag, params⟩ = recognisedRow tag params := by
  simp only [Instr.ofFrame, optag_opbyte]

/-- The numbers without a tag are those of the unrecognised rows. -/
theorem ofFrame_of_thirteen_le {op : Byte} (h : 13 ≤ op.toNat) (params : List Byte) :
    Instr.ofFrame ⟨op, params⟩ = unrecognisedRow op params := by
  simp only [Instr.ofFrame, optag_eq_none_iff.mpr h]

/-- A parameter sequence that no sub-operation row takes is the row `Compare`'s own (R89). -/
theorem compareRow_of_not_startsWithSelector {params : List Byte}
    (h : startsWithSelector params = false) : compareRow params = .compare params := by
  cases params with
  | nil => rfl
  | cons sel buffer =>
    have hsel : ¬ sel.toNat ≤ 3 := by simpa [startsWithSelector] using h
    rw [compareRow]
    split
    case h_5 => rfl
    all_goals omega

/-- Every well-formed instruction is the row of its own frame. -/
theorem ofFrame_opNumber_params {i : Instr} (h : WellFormed i) :
    Instr.ofFrame ⟨i.opNumber, i.params⟩ = i := by
  cases i with
  | compare params =>
    have hsel : startsWithSelector params = false := by
      simpa [WellFormed, Instr.wellFormed] using h
    exact compareRow_of_not_startsWithSelector hsel
  | unrecognised0E0F low params =>
    have hop : (0b0000111#7 ++ low).toNat = 7 * 2 + low.toNat := toNat_append_eq_add _ low
    rw [Instr.opNumber, ofFrame_of_thirteen_le (by omega), unrecognisedRow, if_neg (by omega),
      if_pos (by omega), setWidth_append_right, Instr.params]
  | unrecognised101F low params =>
    have hop : (0b0001#4 ++ low).toNat = 1 * 16 + low.toNat := toNat_append_eq_add _ low
    rw [Instr.opNumber, ofFrame_of_thirteen_le (by omega), unrecognisedRow, if_neg (by omega),
      if_neg (by omega), if_pos (by omega), setWidth_append_right, Instr.params]
  | unrecognised203F low params =>
    have hop : (0b001#3 ++ low).toNat = 1 * 32 + low.toNat := toNat_append_eq_add _ low
    rw [Instr.opNumber, ofFrame_of_thirteen_le (by omega), unrecognisedRow, if_neg (by omega),
      if_neg (by omega), if_neg (by omega), if_pos (by omega), setWidth_append_right, Instr.params]
  | unrecognised407F low params =>
    have hop : (0b01#2 ++ low).toNat = 1 * 64 + low.toNat := toNat_append_eq_add _ low
    rw [Instr.opNumber, ofFrame_of_thirteen_le (by omega), unrecognisedRow, if_neg (by omega),
      if_neg (by omega), if_neg (by omega), if_neg (by omega), if_pos (by omega),
      setWidth_append_right, Instr.params]
  | unrecognised80FF low params =>
    have hop : (0b1#1 ++ low).toNat = 1 * 128 + low.toNat := toNat_append_eq_add _ low
    rw [Instr.opNumber, ofFrame_of_thirteen_le (by omega), unrecognisedRow, if_neg (by omega),
      if_neg (by omega), if_neg (by omega), if_neg (by omega), if_neg (by omega),
      setWidth_append_right, Instr.params]
  | _ => rfl

/-! ## The frame of a row -/

/-- What the row of a frame says of the frame: nothing of it is lost, and no other term stands for
it. -/
def RowOf (f : Frame) (i : Instr) : Prop :=
  WellFormed i ∧ i.opNumber = f.op ∧ i.params = f.params

theorem rowOf_compareRow (params : List Byte) :
    RowOf ⟨opbyte .compare, params⟩ (compareRow params) := by
  cases params with
  | nil => exact ⟨rfl, rfl, rfl⟩
  | cons sel buffer =>
    rw [compareRow]
    split
    case h_5 _ h0 h1 h2 h3 =>
      simp only [imp_false] at h0 h1 h2 h3
      have hsel : ¬ sel.toNat ≤ 3 := by omega
      exact ⟨by simp [WellFormed, Instr.wellFormed, startsWithSelector, hsel], rfl, rfl⟩
    all_goals
      refine ⟨rfl, rfl, ?_⟩
      rw [Instr.params, List.cons.injEq]
      exact ⟨BitVec.eq_of_toNat_eq (by simp [*]), rfl⟩

theorem rowOf_recognisedRow (tag : Opcode) (params : List Byte) :
    RowOf ⟨opbyte tag, params⟩ (recognisedRow tag params) := by
  cases tag with
  | compare => exact rowOf_compareRow params
  | _ => exact ⟨rfl, rfl, rfl⟩

theorem rowOf_unrecognisedRow {op : Byte} (h : 13 ≤ op.toNat) (params : List Byte) :
    RowOf ⟨op, params⟩ (unrecognisedRow op params) := by
  have hlt := op.isLt
  unfold unrecognisedRow
  split
  · exact ⟨rfl, BitVec.eq_of_toNat_eq (by simp [Instr.opNumber]; omega), rfl⟩
  repeat' split
  all_goals exact ⟨rfl, append_setWidth_of_div (by simp; omega), rfl⟩

/-- Every frame is the frame of its row. -/
theorem rowOf_ofFrame (f : Frame) : RowOf f (Instr.ofFrame f) := by
  obtain ⟨op, params⟩ := f
  cases hop : optag op with
  | some tag =>
    obtain rfl := opbyte_of_optag hop
    rw [ofFrame_opbyte]
    exact rowOf_recognisedRow tag params
  | none =>
    have hle := optag_eq_none_iff.mp hop
    rw [ofFrame_of_thirteen_le hle]
    exact rowOf_unrecognisedRow hle params

/-- The table reader's round trip from bytes (R89). -/
theorem encode_of_rowOf {f : Frame} {i : Instr} (h : RowOf f i) : encode i = f.bytes := by
  obtain ⟨-, hop, hparams⟩ := h
  rw [encode, hop, hparams]

/-- Settles O3: the frame reads back, and it is that of its row. -/
theorem encodedFrameDecodesBack : Obligations.EncodedFrameDecodesBack := by
  intro i rest hwf hstorable
  rw [decode, encode, decodeFrame_bytes hstorable]
  simp only [ofFrame_opNumber_params hwf]

/-- Settles O4: reading drops no byte of the frame, and the row none of its bits. -/
theorem decodedFrameEncodesBack : Obligations.DecodedFrameEncodesBack := by
  intro bytes rest i h
  unfold decode at h
  split at h
  case h_1 => cases h
  case h_2 f tail hframe =>
    cases h
    obtain ⟨rfl, hstorable⟩ := decodeFrame_ok hframe
    have hrow := rowOf_ofFrame f
    have ⟨hwf, _, hparams⟩ := hrow
    refine ⟨hwf, ?_, by rw [encode_of_rowOf hrow]⟩
    rwa [Storable, Instr.toValue, hparams]

/-- Settles O2: the eight frames are closed, and the reader computes. -/
theorem tableFramesDecodeToTheirRows : Obligations.TableFramesDecodeToTheirRows := by
  unfold Obligations.TableFramesDecodeToTheirRows
  decide

/-! ## Instruction values and rows -/

theorem ofValue_of_lt {v : InstrValue} (h : v.op < 256) :
    Instr.ofValue v = some (Instr.ofFrame v.toFrame) := if_pos h

theorem ofValue_of_le {v : InstrValue} (h : 256 ≤ v.op) : Instr.ofValue v = none :=
  if_neg (by omega)

/-- A row's number is an opcode byte. -/
theorem toValue_op_lt (i : Instr) : i.toValue.op < 256 := i.opNumber.isLt

theorem toFrame_toValue (i : Instr) : i.toValue.toFrame = ⟨i.opNumber, i.params⟩ := by
  simp [Instr.toValue, InstrValue.toFrame]

theorem ofValue_toValue {i : Instr} (h : WellFormed i) : Instr.ofValue i.toValue = some i := by
  rw [ofValue_of_lt (toValue_op_lt i), toFrame_toValue, ofFrame_opNumber_params h]

/-- What the row of an instruction value is: well formed, and of that value. -/
theorem wellFormed_toValue_of_ofValue {v : InstrValue} {i : Instr} (h : Instr.ofValue v = some i) :
    WellFormed i ∧ i.toValue = v := by
  unfold Instr.ofValue at h
  split at h
  case isFalse => cases h
  case isTrue hlt =>
    cases h
    obtain ⟨hwf, hop, hparams⟩ := rowOf_ofFrame v.toFrame
    refine ⟨hwf, ?_⟩
    rw [Instr.toValue, hop, hparams, InstrValue.toFrame]
    simp [Nat.mod_eq_of_lt hlt]

/-- Settles O5: `ofFrame` and the frame of a row are inverse, below 256. -/
theorem portValuesCorrespondToRows : Obligations.PortValuesCorrespondToRows := by
  refine ⟨fun v hlt => ?_, fun i => ofValue_toValue, fun v hle => ⟨ofValue_of_le hle, ?_⟩⟩
  · have hv := ofValue_of_lt hlt
    exact ⟨_, hv, wellFormed_toValue_of_ofValue hv⟩
  · rintro i rfl
    have := toValue_op_lt i
    omega

/-! ## Mask and match -/

/-- How many low bits of the opcode byte the mask of a row leaves free (R89). -/
def Instr.freeBits : Instr → Nat
  | .unrecognised0E0F _ _ => 1
  | .unrecognised101F _ _ => 4
  | .unrecognised203F _ _ => 5
  | .unrecognised407F _ _ => 6
  | .unrecognised80FF _ _ => 7
  | _ => 0

theorem rowMask_eq {i : Instr} (h : i.matchBytes = 2) : i.rowMask = 2 ^ 16 - 2 ^ i.freeBits := by
  cases i <;> first | rfl | cases h

/-- A mask of high bits takes the low bits away. -/
theorem and_high_mask {n k : Nat} (hn : n < 2 ^ 16) (hk : k < 16) :
    n &&& (2 ^ 16 - 2 ^ k) = n / 2 ^ k * 2 ^ k := by
  have hpow : 2 ^ k = 2 ^ k - 1 + 1 := by have := Nat.two_pow_pos k; omega
  have hlt : 2 ^ k - 1 < 2 ^ 16 := by
    have := Nat.pow_lt_pow_right (a := 2) (by omega) hk; omega
  apply Nat.eq_of_testBit_eq
  intro j
  rw [Nat.testBit_and, Nat.testBit_mul_two_pow, Nat.testBit_div_two_pow, hpow,
    Nat.testBit_two_pow_sub_succ hlt, Nat.testBit_two_pow_sub_one]
  by_cases hkj : k ≤ j
  · rw [Nat.sub_add_cancel hkj]
    by_cases hj : j < 16
    · simp [hj, hkj]
    · have hbit : n.testBit j = false :=
        Nat.testBit_lt_two_pow (hn.trans_le (Nat.pow_le_pow_right (by omega) (by omega)))
      simp [hbit]
  · simp [hkj]
    omega

/-- The least number of the opcode row or unrecognised block that holds `n` (R72, R89). -/
def rowStart (n : Nat) : Nat :=
  if n < 14 then n else if n < 16 then 14 else if n < 32 then 16 else if n < 64 then 32
  else if n < 128 then 64 else 128

/-- The rows' ranges do not overlap: the row a number falls into by mask and match is the one it
starts. -/
theorem rowMatch_eq_rowStart {i : Instr} {n : Nat} (hi : i.matchBytes = 2) (hn : n < 65536)
    (h : n &&& i.rowMask = i.rowMatch) : i.rowMatch = rowStart n := by
  have hk : i.freeBits < 16 := by cases i <;> simp [Instr.freeBits]
  rw [rowMask_eq hi, and_high_mask hn hk] at h
  unfold rowStart
  cases i with
  | compareEqual | compareNotEqual | compareLessThan | compareGreaterThan => cases hi
  | _ => simp only [Instr.freeBits, Instr.rowMatch] at h ⊢; split_ifs <;> omega

/-- The encoding of every instruction lies in its own row. -/
theorem encoding_in_row : ∀ i : Instr, Laws.EncodingInRow.Statement i
  | .add p => Laws.EncodingInRow.add p
  | .subtract p => Laws.EncodingInRow.subtract p
  | .divide p => Laws.EncodingInRow.divide p
  | .multiply p => Laws.EncodingInRow.multiply p
  | .allocate p => Laws.EncodingInRow.allocate p
  | .assign p => Laws.EncodingInRow.assign p
  | .interrupt p => Laws.EncodingInRow.interrupt p
  | .compare p => Laws.EncodingInRow.compare p
  | .move p => Laws.EncodingInRow.move p
  | .addr p => Laws.EncodingInRow.addr p
  | .label p => Laws.EncodingInRow.label p
  | .goto p => Laws.EncodingInRow.goto p
  | .clear p => Laws.EncodingInRow.clear p
  | .compareEqual b => Laws.EncodingInRow.compareEqual b
  | .compareNotEqual b => Laws.EncodingInRow.compareNotEqual b
  | .compareLessThan b => Laws.EncodingInRow.compareLessThan b
  | .compareGreaterThan b => Laws.EncodingInRow.compareGreaterThan b
  | .unrecognised0D p => Laws.EncodingInRow.unrecognised0D p
  | .unrecognised0E0F l p => Laws.EncodingInRow.unrecognised0E0F l p
  | .unrecognised101F l p => Laws.EncodingInRow.unrecognised101F l p
  | .unrecognised203F l p => Laws.EncodingInRow.unrecognised203F l p
  | .unrecognised407F l p => Laws.EncodingInRow.unrecognised407F l p
  | .unrecognised80FF l p => Laws.EncodingInRow.unrecognised80FF l p

/-- A frame without parameters is of a row over the opcode byte alone: it holds no selector. -/
theorem matchBytes_of_params_nil {i : Instr} (h : i.params = []) : i.matchBytes = 2 := by
  cases i <;> first | rfl | cases h

/-- Settles O6: the row of a number is that of its start, and the row of the frame `0x00 op 0xFF`
takes it. -/
theorem opcodeRowsPartitionTheOpcodeByte : Obligations.OpcodeRowsPartitionTheOpcodeByte := by
  refine ⟨fun i j n hi hj hn hni hnj => ?disjoint, fun op => ?cover⟩
  case disjoint => rw [rowMatch_eq_rowStart hi hn hni, rowMatch_eq_rowStart hj hn hnj]
  case cover =>
    have hrow := rowOf_ofFrame ⟨op, []⟩
    have hencode := encode_of_rowOf hrow
    obtain ⟨-, -, hparams⟩ := hrow
    have hbytes := matchBytes_of_params_nil hparams
    have hin := encoding_in_row (Instr.ofFrame ⟨op, []⟩)
    rw [Laws.EncodingInRow.Statement, hbytes, hencode] at hin
    exact ⟨_, hbytes, hin⟩

end Sys2Proof

namespace Sys2Proof.Machine

/-! ## `execute` by the opcode number (41_dispatch_reserved.md R121, R130) -/

/-- An instruction value with a row runs that row. -/
theorem execute_of_ofValue {v : InstrValue} {i : Instr} (h : Instr.ofValue v = some i) (s : State) :
    execute v s = exec i s := by
  rw [execute, h]

/-- R130: the parameters of an unrecognised number are never read. -/
theorem exec_unrecognisedRow (op : Byte) (params : List Byte) (s : State) :
    exec (unrecognisedRow op params) s = unknownOpcode s := by
  unfold unrecognisedRow
  split_ifs <;> rfl

theorem execute_of_thirteen_le {op : Nat} (h : 13 ≤ op) (params : List Byte) (s : State) :
    execute ⟨op, params⟩ s = unknownOpcode s := by
  by_cases hlt : op < 256
  · have hbyte : 13 ≤ (BitVec.ofNat 8 op).toNat := by
      rw [BitVec.toNat_ofNat, Nat.mod_eq_of_lt hlt]; exact h
    rw [execute_of_ofValue (ofValue_of_lt hlt), InstrValue.toFrame, ofFrame_of_thirteen_le hbyte,
      exec_unrecognisedRow]
  · rw [execute, ofValue_of_le (Nat.le_of_not_lt hlt)]

/-- R130: the fault's pair is (CPU, 0). -/
theorem unknownOpcode_of_running {s : State} (h : s.fac.halted = false) :
    unknownOpcode s = .next (trapped s .cpu 0) := by
  rw [unknownOpcode, whileRunning_of_running h, raiseFault_eq_trapped, faultPair]

/-- R75: with a legal selector the handler of `Compare` is that of the sub-operation. -/
theorem execCompare_of_selector {sel : Byte} {op : CompareOp} (h : compareOp sel = some op)
    (buffer : List Byte) (s : State) :
    execCompare (sel :: buffer) s = compareSub op buffer s := by
  simp only [execCompare, compareSub, compareParams, List.length_cons, List.getD_cons_zero, h,
    List.drop_one, List.tail_cons]

/-- The five `Compare` rows are one handler on the whole parameter sequence (entry 17). -/
theorem exec_compareRow (params : List Byte) (s : State) :
    exec (compareRow params) s = exec (.compare params) s := by
  cases params with
  | nil => rfl
  | cons sel buffer =>
    have selects {op : CompareOp} (h : compareOp sel = some op) :
        compareSub op buffer s = exec (.compare (sel :: buffer)) s :=
      (execCompare_of_selector h buffer s).symm
    rw [compareRow]
    split
    case h_1 h => exact selects (op := .equal) (by simp [compareOp, h])
    case h_2 h => exact selects (op := .notEqual) (by simp [compareOp, h])
    case h_3 h => exact selects (op := .lessThan) (by simp [compareOp, h])
    case h_4 h => exact selects (op := .greaterThan) (by simp [compareOp, h])
    case h_5 => rfl

theorem execute_of_kernel_tier {op : Nat} (h : op = 4 ∨ op = 5 ∨ (8 ≤ op ∧ op ≤ 12))
    (params : List Byte) (s : State) : execute ⟨op, params⟩ s = reservedTier s := by
  obtain rfl | rfl | ⟨hlo, hhi⟩ := h
  · rfl
  · rfl
  · interval_cases op <;> rfl

/-- Settles O7: below 13 the value's row is that of its tag, and the number 7 is the handler of
`Compare` whichever row takes it. -/
theorem dispatchByOpcodeNumber : Obligations.DispatchByOpcodeNumber := by
  intro op params s
  refine ⟨?_, ?_, ?_, ?_, ?_, ?_, fun hrun h => ?_, fun hrun h => ?_, execute_of_halted _⟩
  iterate 5 rintro rfl; rfl
  · rintro rfl
    exact exec_compareRow params s
  · rw [execute_of_kernel_tier h, reservedTier_of_running hrun]
  · rw [execute_of_thirteen_le h, unknownOpcode_of_running hrun]

/-- Settles O26: the six arms are `unknownOpcode` by definition, and `execute` runs it for every
number from 13 on. -/
theorem unrecognisedNumbersTakeUnknownOpcode :
    Obligations.UnrecognisedNumbersTakeUnknownOpcode := by
  intro params s hrun
  have unknown := unknownOpcode_of_running hrun
  exact ⟨unknown, fun _ => unknown, fun _ => unknown, fun _ => unknown, fun _ => unknown,
    fun _ => unknown, fun op h => by rw [execute_of_thirteen_le h, unknown]⟩

/-! ## The ports and the step that accepts EXEC -/

theorem two_pow_le_of_four_le {w : Nat} (h : 4 ≤ w) : 16 ≤ 2 ^ w :=
  Nat.pow_le_pow_right (n := 2) (by omega) h

/-- Settles O54: the port laws of the model, and the tags are numbers of four bits. -/
theorem portsCarryWhatTheirWidthHolds : Obligations.PortsCarryWhatTheirWidthHolds := by
  refine fun c => ⟨fun v => valueAtPort_of_lt, fun v => ⟨Nat.mod_lt _ (Nat.two_pow_pos _), rfl⟩,
    fun hopw tag => ?_, fun k => codeAtPort_of_fits, codeFits_codeAtPort c⟩
  have htag : (opbyte tag).toNat ≤ 12 := tagOf_isSome_iff.mp (by simp)
  have := two_pow_le_of_four_le hopw
  omega

/-- The step that accepts EXEC is `execute` of the value the port carries. -/
theorem step_of_accepts_exec {s : State} {v : InstrValue} {rest : List Request}
    (h : Accepts s (.exec v) rest) :
    step s = execute (valueAtPort s.cfg v) { s with pending := rest } :=
  step_of_accepts h

/-- Settles O1: `execute` runs the row of the value, and that row is the instruction. -/
theorem stepRunsTheDecodedInstruction : Obligations.StepRunsTheDecodedInstruction := by
  refine ⟨fun s i rest hwf hport haccepts => ?_, ?_⟩
  · rw [step_of_accepts_exec haccepts, valueAtPort_of_lt hport,
      execute_of_ofValue (ofValue_toValue hwf)]
  · rintro s v w rest haccepts rfl
    rw [step_of_accepts_exec haccepts]
    refine ⟨fun hlt => ?_, fun hle => ?_⟩
    · have hrow := ofValue_of_lt hlt
      obtain ⟨hwf, hvalue⟩ := wellFormed_toValue_of_ofValue hrow
      exact ⟨_, hwf, hvalue, execute_of_ofValue hrow _⟩
    · have hrun : s.fac.halted = false := halted_eq_false_of_accepts haccepts rfl
      have hthirteen := le_trans (show 13 ≤ 256 by omega) hle
      exact (execute_of_thirteen_le hthirteen _ _).trans (unknownOpcode_of_running hrun)

end Sys2Proof.Machine
end

section
/-! PROOFS. The values operands can take, the rounded quotient and the laws of the comparisons
(40_operand_unpacker.md R109, 44_arithmetic.md R169, R173, R175, 42_compare.md R142 to R145). -/

namespace Sys2Proof.Machine

/-! ## The values operands can take -/

theorem sep_not_mem_split254_fst (s : List Byte) : sep ∉ (split254 s).1 := by
  induction s with
  | nil => simp
  | cons x xs ih =>
    by_cases hx : x = sep
    · simp [hx]
    · simpa [split254_cons_of_ne hx, ih] using Ne.symm hx

/-- Padding with zeros brings in no separator. -/
theorem sep_not_mem_norm4 {s : List Byte} (h : sep ∉ s) : sep ∉ norm4 s := by
  intro hmem
  obtain hs | hzero := List.mem_append.mp (List.mem_of_mem_take hmem)
  · exact h hs
  · exact absurd (List.eq_of_mem_replicate hzero) (by decide)

/-- A normalised segment is the four bytes of its operand. -/
theorem le32_int32Le_norm4 (s : List Byte) : le32 (int32Le (norm4 s)) = norm4 s := by
  rw [norm4_eq, le32_int32Le]

/-- Settles O12: operand A is read from bytes before the first separator, and operand B from any. -/
theorem expressibleOperandValues : Obligations.ExpressibleOperandValues := by
  refine ⟨fun a => ⟨?_, fun h => ⟨pack a 0#32, by rw [decodeTwo_pack h]⟩⟩,
    fun b => ⟨sep :: le32 b, ?_⟩⟩
  · rintro ⟨s, rfl⟩
    rw [decodeTwo, le32_int32Le_norm4]
    exact sep_not_mem_norm4 (sep_not_mem_split254_fst s)
  · rw [decodeTwo, split254_sep, norm4_le32, int32Le_le32]

/-! ## The rounded quotient -/

/-- R169: the magnitude quotient with its sign is the truncating one. -/
theorem quotientTowardZero_eq_tdiv (a b : Int) : quotientTowardZero a b = a.tdiv b := by
  have hnat (n : Nat) : ¬ (n : Int) < 0 := by omega
  obtain rfl | ha := eq_or_ne a 0
  · simp [quotientTowardZero]
  obtain rfl | hb := eq_or_ne b 0
  · simp [quotientTowardZero]
  obtain ⟨n, rfl | rfl⟩ := a.eq_nat_or_neg <;> obtain ⟨m, rfl | rfl⟩ := b.eq_nat_or_neg
  all_goals
    have hn : 0 < n := by omega
    have hm : 0 < m := by omega
    simp [quotientTowardZero, hnat, hn, hm]

/-- The remainder of the truncating quotient has the sign of the dividend (R175). -/
theorem tmod_bounds (a : Int) {b : Int} (hb : b ≠ 0) :
    |a.tmod b| < |b| ∧ (0 ≤ a → 0 ≤ a.tmod b) ∧ (a ≤ 0 → a.tmod b ≤ 0) := by
  refine ⟨?_, fun h => Int.tmod_nonneg b h, fun h => ?_⟩
  · rw [Int.abs_eq_natAbs, Int.abs_eq_natAbs, Int.natAbs_tmod]
    exact_mod_cast Nat.mod_lt _ (Int.natAbs_pos.mpr hb)
  · have hneg := Int.tmod_nonneg b (Int.neg_nonneg_of_nonpos h)
    rw [Int.neg_tmod] at hneg
    omega

/-- The remainder of the floor quotient has the sign of the divisor (R173). -/
theorem fmod_bounds (a : Int) {b : Int} (hb : b ≠ 0) :
    |a.fmod b| < |b| ∧ (0 < b → 0 ≤ a.fmod b) ∧ (b < 0 → a.fmod b ≤ 0) := by
  obtain hneg | hpos := lt_or_gt_of_ne hb
  · have hlo := Int.fmod_nonneg_of_pos (-a) (Int.neg_pos_of_neg hneg)
    have hhi := Int.fmod_lt_of_pos (-a) (Int.neg_pos_of_neg hneg)
    rw [Int.neg_fmod_neg] at hlo hhi
    rw [abs_of_neg hneg, abs_of_nonpos (by omega)]
    omega
  · have hlo := Int.fmod_nonneg_of_pos a hpos
    have hhi := Int.fmod_lt_of_pos a hpos
    rw [abs_of_pos hpos, abs_of_nonneg hlo]
    omega

/-- A quotient whose remainder is smaller than the divisor is in the signed range, but for the
overflow pair. -/
theorem quotient_in_range {a b q r : Int} (ha : -2147483648 ≤ a ∧ a < 2147483648) (hb : b ≠ 0)
    (hovf : ¬ (a = -2147483648 ∧ b = -1)) (heq : a = q * b + r) (hr : |r| < |b|) :
    -2147483648 ≤ q ∧ q < 2147483648 := by
  obtain ⟨hlo, hhi⟩ := ha
  obtain ⟨hrlo, hrhi⟩ := abs_lt.mp hr
  obtain hneg | hpos := lt_or_gt_of_ne hb
  · rw [abs_of_neg hneg] at hrlo hrhi
    obtain rfl | hle : b = -1 ∨ b ≤ -2 := by omega
    · omega
    · exact ⟨by by_contra hq; nlinarith, by by_contra hq; nlinarith⟩
  · rw [abs_of_pos hpos] at hrlo hrhi
    exact ⟨by by_contra hq; nlinarith, by by_contra hq; nlinarith⟩

/-- R170: a quotient in the signed range is returned as it is, so the remainder that the result
leaves is the quotient's. -/
theorem remainder_of_wrap32 {a : Word} {b q r : Int} (hb : b ≠ 0)
    (hovf : ¬ (a.toInt = -2147483648 ∧ b = -1)) (heq : a.toInt = q * b + r) (hr : |r| < |b|) :
    a.toInt - (wrap32 q).toInt * b = r := by
  obtain ⟨hlo, hhi⟩ := quotient_in_range ⟨a.le_toInt, a.toInt_lt⟩ hb hovf heq hr
  rw [wrap32_toInt, Int.bmod_eq_of_le (by omega) (by omega)]
  omega

theorem remainder_of_quotientTowardZero {a : Word} {b : Int} (hb : b ≠ 0)
    (hovf : ¬ (a.toInt = -2147483648 ∧ b = -1)) :
    a.toInt - (wrap32 (quotientTowardZero a.toInt b)).toInt * b = a.toInt.tmod b := by
  obtain ⟨hlt, -⟩ := tmod_bounds a.toInt hb
  refine remainder_of_wrap32 hb hovf ?_ hlt
  rw [quotientTowardZero_eq_tdiv, Int.mul_comm, Int.mul_tdiv_add_tmod]

theorem remainder_of_fdiv {a : Word} {b : Int} (hb : b ≠ 0)
    (hovf : ¬ (a.toInt = -2147483648 ∧ b = -1)) :
    a.toInt - (wrap32 (a.toInt.fdiv b)).toInt * b = a.toInt.fmod b := by
  obtain ⟨hlt, -⟩ := fmod_bounds a.toInt hb
  refine remainder_of_wrap32 hb hovf ?_ hlt
  rw [Int.mul_comm, Int.mul_fdiv_add_fmod]

/-- Settles O16: each setting's quotient with the remainder it leaves. -/
theorem divideReturnsRoundedQuotient : Obligations.DivideReturnsRoundedQuotient := by
  rintro params s _ b hs rfl hbdef hb hovf
  have hdiv : div32 s.cfg (decodeTwo params).1 (decodeTwo params).2 =
      .ok (wrap32 (quotient s.cfg.divRound (decodeTwo params).1.toInt b)) := by
    subst hbdef
    exact div32_of_regular s.cfg hb hovf
  refine ⟨_, _, exec_divide_of_ok hs hdiv, (add_sub_cancel _ _).symm, ?_⟩
  cases s.cfg.divRound with
  | towardZero =>
    rw [quotient, remainder_of_quotientTowardZero hb hovf]
    exact ⟨Int.tmod_eq_zero_of_dvd, fun _ => tmod_bounds _ hb, nofun, nofun⟩
  | floor =>
    rw [quotient, remainder_of_fdiv hb hovf]
    exact ⟨Int.fmod_eq_zero_of_dvd, nofun, fun _ => fmod_bounds _ hb, nofun⟩
  | unconstrained =>
    refine ⟨fun hdvd => ?exact, nofun, nofun, fun _ hndvd => ?inexact⟩
    case exact =>
      rw [quotient, if_pos (Int.emod_eq_zero_of_dvd hdvd), remainder_of_quotientTowardZero hb hovf,
        Int.tmod_eq_zero_of_dvd hdvd]
    case inexact => rw [quotient, if_neg (mt Int.dvd_of_emod_eq_zero hndvd)]

/-! ## The comparisons -/

/-- Settles O22, by trichotomy of the two operands. -/
theorem comparisonsPartitionEveryBuffer : Obligations.ComparisonsPartitionEveryBuffer := by
  rintro buffer s T F hs ⟨hfalse, htrue⟩ hlen rfl rfl
  obtain ⟨results, -⟩ := compareSubOperationResults buffer s _ _ hs rfl rfl
  obtain ⟨heq, hne, hlt, hgt⟩ := results hlen
  rw [heq, hne, hlt, hgt, hfalse]
  refine ⟨by simpa [completed] using htrue, ?_⟩
  obtain h | h | h := lt_trichotomy (decodeTwo buffer).1.toInt (decodeTwo buffer).2.toInt
  · simp [h, h.ne, h.not_gt]
  · simp [h]
  · simp [h, h.ne', h.not_gt]

/-- Settles O23: the buffer unpacks to `a` and `b`, and both comparisons of words are those of their
signed readings. -/
theorem packedOperandsCompareAsGiven : Obligations.PackedOperandsCompareAsGiven := by
  intro a b s hs ha
  obtain ⟨results, -⟩ := compareSubOperationResults (pack a b) s _ _ hs rfl rfl
  have hlen : 2 ≤ (pack a b).length := by simp [pack]
  simpa only [decodeTwo_pack ha, BitVec.toInt_inj, ← BitVec.slt_iff_toInt_lt] using results hlen

end Sys2Proof.Machine
end

section
/-! PROOFS. `Interrupt` and the call patterns of one EXEC transaction (43_interrupt_system.md R150,
R151, 41_dispatch_reserved.md R132, R133). -/

namespace Sys2Proof.Machine

/-! ## `Interrupt` -/

/-- R151: while the latch is clear, the facade's word on it is what the call leaves. -/
theorem interruptCall_of_running {s : State} (h : s.fac.halted = false) (code : Byte)
    (answer : List Byte × Bool) :
    interruptCall code answer s = answered s code answer.1 answer.2 := by
  rw [interruptCall_eq_answered, h, Bool.false_or]

theorem answerInterrupt_eq_answered (code : Byte) (s : State) :
    answerInterrupt code s = answered { s with awaiting := none } code
      (Config.intOracle s.facade s.fac.log code).1
      (s.fac.halted || (Config.intOracle s.facade s.fac.log code).2) := rfl

theorem exec_interrupt_of_ready {s : State} (hrun : s.fac.halted = false)
    (hready : s.facadeReady = true) (code : Byte) :
    exec (.interrupt [code]) s =
      .next (interruptCall code (Config.intOracle s.facade s.fac.log code) s) := by
  simp [exec, execInterrupt, hrun, hready]

theorem exec_interrupt_of_not_ready {s : State} (hrun : s.fac.halted = false)
    (hready : s.facadeReady = false) (code : Byte) :
    exec (.interrupt [code]) s = .next (awaitAnswer code s) := by
  simp [exec, execInterrupt, hrun, hready]

/-- R150: with any number of bytes but one the facade's handler is not called. -/
theorem exec_interrupt_of_arity {s : State} (hrun : s.fac.halted = false) {params : List Byte}
    (hlen : params.length ≠ 1) : exec (.interrupt params) s = .next (trapped s .cpu 1) := by
  obtain ⟨t, ht⟩ : ∃ t, exec (.interrupt params) s = .next t := ⟨_, whileRunning_of_running hrun⟩
  obtain ⟨-, ⟨code, rfl, -⟩ | ⟨code, rfl, -⟩ | ⟨-, rfl⟩⟩ := execInterrupt_next ht
  · exact absurd rfl hlen
  · exact absurd rfl hlen
  · rw [ht, raiseFault_eq_trapped, faultPair]

theorem step_of_answer {s : State} {code : Byte} (hreset : s.resetLine = false)
    (hwait : s.awaiting = some code) (hready : s.facadeReady = true) :
    step s = .next (answerInterrupt code s) := by
  simp [step, nextWork, hreset, hwait, hready]

/-- R151: the call in progress goes on waiting. -/
theorem step_of_wait {s : State} {code : Byte} (hreset : s.resetLine = false)
    (hwait : s.awaiting = some code) (hready : s.facadeReady = false) : step s = .next s := by
  simp [step, nextWork, hreset, hwait, hready]

/-- Settles O24: the answer that comes at once, the wait, the answer that comes late, and the arity
fault. -/
theorem interruptForwardsOneByte : Obligations.InterruptForwardsOneByte := by
  refine ⟨fun s code hrun hready => ?now, fun s code hrun hready => ?wait,
    fun s code hreset hrun hwait hready => ?late, fun s params hrun => exec_interrupt_of_arity hrun⟩
  case now => rw [exec_interrupt_of_ready hrun hready, interruptCall_of_running hrun]
  case wait => exact exec_interrupt_of_not_ready hrun hready code
  case late =>
    rw [step_of_answer hreset hwait hready, answerInterrupt_eq_answered, hrun, Bool.false_or]

/-- A run goes on with the next state of its first step. -/
theorem run_succ_of_step {M : Host.Core} {s t : M.State} (h : M.step s = .next t) (k : Nat) :
    M.run (k + 1) s = M.run k t := by
  rw [Host.Core.run, h]

theorem run_succ {s t : State} (h : step s = .next t) (k : Nat) :
    Host.Core.run core (k + 1) s = Host.Core.run core k t :=
  run_succ_of_step (M := core) h k

/-- A state that a step leaves as it is stays for every number of steps. -/
theorem run_of_fixed {s : State} (h : step s = .next s) (k : Nat) :
    Host.Core.run core k s = .next s := by
  induction k with
  | zero => rfl
  | succ k ih => rw [run_succ h, ih]

/-- Settles O57: the first step makes the call, and every further one waits. -/
theorem unansweredInterruptNeverCompletes : Obligations.UnansweredInterruptNeverCompletes := by
  intro s v code rest hready haccepts hvalue k
  have hfirst : step s = .next (awaitAnswer code (acceptRequest rest s)) := by
    have hrun : (acceptRequest rest s).fac.halted = false := by
      rw [acceptRequest_fac, halted_eq_false_of_accepts haccepts rfl]
    have hrow : Instr.ofValue ⟨6, [code]⟩ = some (.interrupt [code]) := rfl
    rw [step_of_accepts haccepts, serve, acceptRequest_cfg, hvalue, execute_of_ofValue hrow,
      exec_interrupt_of_not_ready hrun hready]
  obtain ⟨hreset, -⟩ := haccepts
  rw [run_succ hfirst]
  have hwait : step (awaitAnswer code (acceptRequest rest s)) = .next _ :=
    step_of_wait hreset (awaitAnswer_awaiting ..) hready
  exact run_of_fixed hwait k

/-! ## The call patterns of one EXEC transaction -/

/-- Settles O29: every arm stands behind the halt condition only. -/
theorem everyInstructionRunsWhileNotHalted : Obligations.EveryInstructionRunsWhileNotHalted := by
  intro i s
  obtain ⟨u, hu⟩ := exec_eq_whileRunning i s
  refine ⟨fun ⟨t, ht⟩ => ?_, fun hrun => ⟨u, by rw [hu, whileRunning_of_running hrun]⟩⟩
  obtain ⟨hrun, -⟩ := whileRunning_next (hu.symm.trans ht)
  exact hrun

/-- R133 (a) and (c): one result and no facade call, or the two calls of a fault. -/
def ReturnsOrTraps (s t : State) : Prop :=
  (∃ r, t = completed s r) ∨ ∃ c k, t = trapped s c k

section Patterns
variable {s t : State}

theorem raiseFault_pattern (f : DispatcherFault) (s : State) :
    ∃ c k, raiseFault f s = trapped s c k :=
  ⟨_, _, raiseFault_eq_trapped f s⟩

theorem whileRunning_raiseFault_pattern {f : DispatcherFault}
    (h : whileRunning s (raiseFault f s) = .next t) : ∃ c k, t = trapped s c k := by
  obtain ⟨-, rfl⟩ := whileRunning_next h
  exact raiseFault_pattern f s

theorem arith_pattern {compute : Word → Word → Except DispatcherFault Word} {params : List Byte}
    (h : arith compute params s = .next t) : ReturnsOrTraps s t := by
  obtain ⟨-, ⟨v, -, rfl⟩ | ⟨f, -, rfl⟩⟩ := arith_next h
  · exact .inl ⟨_, returnResult_eq_completed _ s⟩
  · exact .inr (raiseFault_pattern f s)

theorem compareSub_pattern {op : CompareOp} {buffer : List Byte}
    (h : compareSub op buffer s = .next t) : ReturnsOrTraps s t := by
  obtain ⟨-, ⟨-, rfl⟩ | ⟨-, rfl⟩⟩ := compareSub_next h
  · exact .inr (raiseFault_pattern _ s)
  · exact .inl ⟨_, returnResult_eq_completed _ s⟩

theorem execCompare_pattern {params : List Byte} (h : execCompare params s = .next t) :
    ReturnsOrTraps s t := by
  obtain ⟨-, rfl⟩ := whileRunning_next h
  obtain ⟨-, hp⟩ | ⟨-, -, hp⟩ | ⟨-, op, -, hp⟩ := compareParams_cases params s
  · exact .inr (hp ▸ raiseFault_pattern _ s)
  · exact .inr (hp ▸ raiseFault_pattern _ s)
  · exact .inl ⟨_, hp.trans (returnResult_eq_completed _ s)⟩

/-- R133 for every instruction but `Interrupt`: the arithmetic and `Compare` opcodes return or trap,
and all others trap. -/
theorem exec_pattern {i : Instr} (h : exec i s = .next t) :
    (i.opNumber.toNat ∈ [0, 1, 2, 3, 7] ∧ ∃ r, t = completed s r) ∨
    (∃ params, i = .interrupt params) ∨ ∃ c k, t = trapped s c k := by
  have computes (hop : i.opNumber.toNat ∈ [0, 1, 2, 3, 7]) (hp : ReturnsOrTraps s t) :
      (i.opNumber.toNat ∈ [0, 1, 2, 3, 7] ∧ ∃ r, t = completed s r) ∨
        (∃ params, i = .interrupt params) ∨ ∃ c k, t = trapped s c k :=
    hp.imp (fun hr => ⟨hop, hr⟩) .inr
  cases i with
  | add =>
    unfold exec execAdd at h
    exact computes (by simp [Instr.opNumber]) (arith_pattern h)
  | subtract =>
    unfold exec execSubtract at h
    exact computes (by simp [Instr.opNumber]) (arith_pattern h)
  | divide => exact computes (by simp [Instr.opNumber]) (arith_pattern h)
  | multiply =>
    unfold exec execMultiply at h
    exact computes (by simp [Instr.opNumber]) (arith_pattern h)
  | compare => exact computes (by simp [Instr.opNumber]) (execCompare_pattern h)
  | compareEqual | compareNotEqual | compareLessThan | compareGreaterThan =>
    exact computes (by simp [Instr.opNumber]) (compareSub_pattern h)
  | interrupt params => exact .inr (.inl ⟨params, rfl⟩)
  | _ => exact .inr (.inr (whileRunning_raiseFault_pattern h))

end Patterns

/-- Settles O30: the patterns of the opcodes, those of `Interrupt`, and the two steps of a call in
progress. -/
theorem execMakesOneOfThreeCallPatterns : Obligations.ExecMakesOneOfThreeCallPatterns := by
  refine ⟨fun i s t h => ?exec, fun s t code hreset hwait h => ?waiting⟩
  case exec =>
    obtain ⟨hop, r, ht⟩ | ⟨params, rfl⟩ | htrap := exec_pattern h
    · exact .inl ⟨r, hop, ht⟩
    · obtain ⟨-, ⟨code, rfl, hready, rfl⟩ | ⟨code, rfl, hready, rfl⟩ | ⟨-, rfl⟩⟩ :=
        execInterrupt_next h
      · exact .inr (.inl ⟨code, _, _, rfl, hready, interruptCall_eq_answered ..⟩)
      · exact .inr (.inr (.inr ⟨code, rfl, hready, rfl⟩))
      · exact .inr (.inr (.inl (raiseFault_pattern _ s)))
    · exact .inr (.inr (.inl htrap))
  case waiting =>
    obtain hready | hready := s.facadeReady.eq_false_or_eq_true
    · rw [step_of_answer hreset hwait hready] at h
      cases h
      exact .inl ⟨hready, _, _, answerInterrupt_eq_answered code s⟩
    · rw [step_of_wait hreset hwait hready] at h
      cases h
      exact .inr ⟨hready, rfl⟩

end Sys2Proof.Machine
end

section
/-! PROOFS. What every step keeps, and what it returns (10_state.md R31, R32, R36, 20_memory.md R54,
R57, 41_dispatch_reserved.md R132, 60_exceptions.md R225, 70_reset_and_hazards.md R260, R261). -/

namespace Sys2Proof.Machine

/-! ## Reset and waiting -/

theorem step_of_resetLine {s : State} (h : s.resetLine = true) : step s = .next (resetBlock s) := by
  simp [step, nextWork, h]

/-- Settles O37: the reset line comes before everything else. -/
theorem resetAbortsAndClears : Obligations.ResetAbortsAndClears :=
  ⟨fun _ => step_of_resetLine, step_of_resetLine rfl⟩

/-- Settles O38: there is nothing to accept. -/
theorem idleBlockWaits : Obligations.IdleBlockWaits := by
  intro s hreset hwait hdec hpending
  simp [step, nextWork, hreset, hwait, hdec, hpending, nextRequest]

/-- Settles O36: the fields of `State.reset`. -/
theorem resetStateHasTheValuesGiven : Obligations.ResetStateHasTheValuesGiven :=
  ⟨rfl, rfl, rfl, rfl⟩

/-! ## The parameters -/

/-- The fields that no step writes (R32; entries 4 and 11). -/
def SameInputs (s t : State) : Prop :=
  t.cfg = s.cfg ∧ t.facade = s.facade ∧ t.facadeReady = s.facadeReady

theorem sameInputs_of_execShape {s t : State} (h : ExecShape s t) : SameInputs s t := by
  obtain ⟨-, ⟨r, rfl⟩ | ⟨code, answer, -, rfl⟩ | ⟨code, -, rfl⟩ | ⟨f, -, rfl⟩⟩ := h <;>
    exact ⟨rfl, rfl, rfl⟩

theorem sameInputs_of_serve {r : Request} {s t : State} (h : serve r s = .next t) :
    SameInputs s t := by
  obtain ⟨v, -, hexec⟩ | ⟨code, -, -, rfl⟩ | ⟨-, -, rfl⟩ | ⟨stream, -, rfl⟩ | ⟨program, -, rfl⟩ :=
    serve_next h
  · exact sameInputs_of_execShape (execute_next hexec)
  all_goals exact ⟨rfl, rfl, rfl⟩

theorem sameInputs_of_decByte (x : Byte) (rest : List Byte) (s : State) :
    SameInputs s (decByte x rest s) := by
  obtain ⟨f, -, h⟩ | ⟨e, -, h⟩ := decByte_cases x rest s <;> rw [h] <;> exact ⟨rfl, rfl, rfl⟩

theorem sameInputs_of_step {s t : State} (h : step s = .next t) : SameInputs s t := by
  obtain ⟨-, rfl⟩ | ⟨-, ⟨code, -, -, rfl⟩ | ⟨-, -, rfl⟩ | ⟨x, rest, -, -, rfl⟩ | ⟨-, -, rfl⟩ |
    ⟨-, -, -, rfl⟩ | ⟨r, rest, -, hserve⟩⟩ := step_next h
  · exact ⟨rfl, rfl, rfl⟩
  · exact ⟨rfl, rfl, rfl⟩
  · exact ⟨rfl, rfl, rfl⟩
  · exact sameInputs_of_decByte x rest s
  · exact ⟨rfl, rfl, rfl⟩
  · exact ⟨rfl, rfl, rfl⟩
  · exact sameInputs_of_serve (s := acceptRequest rest s) hserve

/-- Settles O39: these are the fields of `SameInputs`. -/
theorem noStepWritesTheParameters : Obligations.NoStepWritesTheParameters :=
  fun _ _ => sameInputs_of_step

/-! ## The facade's record -/

/-- The record after one facade transaction: an interrupt call, the delivery of a fault whose code
the port carries, or the halt call of HALT. -/
def FacCall (s : State) (g : Fac) : Prop :=
  (∃ code answer, g = (facInterrupt code answer s).fac) ∨
  (∃ f, (∀ k, f = .reportedFatal k → s.cfg.CodeFits k) ∧ g = (deliverFault f s).fac) ∨
  g = (facHalt s.cfg.haltExitCode s).fac

theorem execShape_fac {s t : State} (h : ExecShape s t) :
    t.fac = s.fac ∨ (s.fac.halted = false ∧ FacCall s t.fac) := by
  obtain ⟨hrun, ⟨r, rfl⟩ | ⟨code, answer, -, rfl⟩ | ⟨code, -, rfl⟩ | ⟨f, hf, rfl⟩⟩ := h
  · exact .inl rfl
  · exact .inr ⟨hrun, .inl ⟨code, answer, rfl⟩⟩
  · exact .inl rfl
  · exact .inr ⟨hrun, .inr (.inl ⟨f, fun k hk => absurd hk (hf k), rfl⟩)⟩

theorem serve_fac {r : Request} {s t : State} (h : serve r s = .next t) :
    t.fac = s.fac ∨ (s.fac.halted = false ∧ FacCall s t.fac) := by
  obtain ⟨v, -, hexec⟩ | ⟨code, -, hrun, rfl⟩ | ⟨-, hrun, rfl⟩ | ⟨stream, -, rfl⟩ |
    ⟨program, -, rfl⟩ := serve_next h
  · exact execShape_fac (execute_next hexec)
  · refine .inr ⟨hrun, .inr (.inl ⟨_, ?_, rfl⟩)⟩
    rintro k ⟨⟩
    exact codeFits_codeAtPort s.cfg code
  · exact .inr ⟨hrun, .inr (.inr rfl)⟩
  · exact .inl rfl
  · exact .inl rfl

/-- What a step but a reset does to the facade's record: nothing, or one facade transaction, which
finds the latch clear unless it is the answer to a call in progress (R132). -/
theorem step_fac {s t : State} (h : step s = .next t) (hreset : s.resetLine = false) :
    t.fac = s.fac ∨ ((s.awaiting = none → s.fac.halted = false) ∧ FacCall s t.fac) := by
  obtain ⟨hset, -⟩ | ⟨-, ⟨code, hwait, -, rfl⟩ | ⟨-, -, rfl⟩ | ⟨x, rest, -, -, rfl⟩ | ⟨-, -, rfl⟩ |
    ⟨-, -, -, rfl⟩ | ⟨r, rest, -, hserve⟩⟩ := step_next h
  · simp [hreset] at hset
  · exact .inr ⟨fun hnone => by simp [hwait] at hnone, .inl ⟨code, _, answerInterrupt_fac s code⟩⟩
  · exact .inl rfl
  · exact .inl (decByte_fac x rest s)
  · exact .inl rfl
  · exact .inl rfl
  · exact (serve_fac hserve).imp id fun ⟨hrun, hcall⟩ => ⟨fun _ => hrun, hcall⟩

/-- Settles O32: a facade transaction would find the latch clear, and by `WaitOk` no call is in
progress. -/
theorem onlyResetClearsTheHaltLatch : Obligations.OnlyResetClearsTheHaltLatch := by
  intro s t hw h hhalted
  have kept (hreset : s.resetLine = false) : t.fac = s.fac := by
    obtain hfac | ⟨hrun, -⟩ := step_fac h hreset
    · exact hfac
    · simp [hrun (hw.awaiting_eq_none hhalted)] at hhalted
  refine ⟨kept, fun hclear => ?_⟩
  by_contra hreset
  rw [kept (by simpa using hreset), hhalted] at hclear
  cases hclear

theorem FacCall.log_prefix {s : State} {g : Fac} (h : FacCall s g) : s.fac.log <+: g.log := by
  obtain ⟨code, answer, rfl⟩ | ⟨f, -, rfl⟩ | rfl := h
  · exact List.prefix_append ..
  · rw [deliverFault_eq]
    exact List.prefix_append ..
  · exact List.prefix_append ..

/-! ## The codes within their width -/

theorem codeFits_of_small {cfg : Config} (h : cfg.WidthsOk) {k : Int} (hlo : 0 ≤ k) (hhi : k < 8) :
    cfg.CodeFits k := by
  obtain ⟨-, hcodew, -, -⟩ := h
  have hpow := two_pow_le_of_four_le hcodew
  unfold Config.CodeFits
  generalize 2 ^ cfg.codew = m at hpow
  omega

/-- The codes of R221 are small, or parameters, or the caller's as the port carries it. -/
theorem codeFits_faultPair {cfg : Config} (h : cfg.WidthsOk) {f : DispatcherFault}
    (hf : ∀ k, f = .reportedFatal k → cfg.CodeFits k) : cfg.CodeFits (faultPair cfg f).2 := by
  have small {k : Nat} (hk : k < 8) : cfg.CodeFits k := codeFits_of_small h (by omega) (by omega)
  obtain ⟨-, -, hdivz, -⟩ := h
  cases f with
  | divideByZero | divideOverflow => exact hdivz
  | reportedFatal k => exact hf k rfl
  | unknownOpcode => exact small (k := 0) (by decide)
  | interruptArity => exact small (k := 1) (by decide)
  | reservedTier => exact small (k := 3) (by decide)
  | compareArity => exact small (k := 4) (by decide)
  | compareSelector => exact small (k := 5) (by decide)

/-- Calls whose codes are within the width keep the record's codes within it. -/
theorem CodesOk.append_calls {cfg : Config} {f : Fac} (hf : CodesOk cfg f) {calls : List FacEvent}
    {halted : Bool} {exitCode : Code} (hcalls : CodesOk cfg ⟨calls, halted, exitCode⟩) :
    CodesOk cfg ⟨f.log ++ calls, halted, exitCode⟩ := by
  obtain ⟨herr, hhalt, -⟩ := hf
  obtain ⟨herr', hhalt', hexit⟩ := hcalls
  exact ⟨fun c k hk => (List.mem_append.mp hk).elim (herr c k) (herr' c k),
    fun k hk => (List.mem_append.mp hk).elim (hhalt k) (hhalt' k), hexit⟩

theorem FacCall.keeps_codesOk {s : State} {g : Fac} (hwidths : s.cfg.WidthsOk)
    (hs : CodesOk s.cfg s.fac) (h : FacCall s g) : CodesOk s.cfg g := by
  have hone := codeFits_of_small hwidths (k := 1) (by decide) (by decide)
  obtain ⟨code, answer, rfl⟩ | ⟨f, hf, rfl⟩ | rfl := h
  · have ⟨_, _, hexit⟩ := hs
    exact hs.append_calls ⟨by simp, by simp, hexit⟩
  · have hpair := codeFits_faultPair hwidths hf
    rw [deliverFault_eq]
    refine hs.append_calls ⟨?_, ?_, hone⟩
    · simpa using hpair
    · simpa using hone
  · obtain ⟨-, -, -, hexit⟩ := hwidths
    exact hs.append_calls ⟨by simp, by simpa using hexit, hexit⟩

/-- The record right after reset holds one code, the exit code 0. -/
theorem codesOk_reset {cfg : Config} (h : cfg.WidthsOk) : CodesOk cfg Fac.reset :=
  ⟨by simp [Fac.reset], by simp [Fac.reset], codeFits_of_small h (by decide) (by decide)⟩

/-- Settles O55: a reset leaves the exit code 0, and every other step at most one facade
transaction. -/
theorem everyStepKeepsCodesWithinTheirWidth : Obligations.EveryStepKeepsCodesWithinTheirWidth := by
  intro s t hwidths hcodes h
  obtain ⟨hcfg, -, -⟩ := sameInputs_of_step h
  rw [hcfg]
  refine ⟨hwidths, ?_⟩
  obtain hreset | hreset := s.resetLine.eq_false_or_eq_true
  · rw [step_of_resetLine hreset] at h
    cases h
    exact codesOk_reset hwidths
  · obtain hfac | ⟨-, hcall⟩ := step_fac h hreset
    · rwa [hfac]
    · exact hcall.keeps_codesOk hwidths hcodes

/-! ## The interrupt call in progress -/

theorem waitOk_of_awaiting {s : State} (h : s.awaiting = none) : WaitOk s :=
  fun hne => absurd h hne

theorem decByte_awaiting (x : Byte) (rest : List Byte) (s : State) :
    (decByte x rest s).awaiting = s.awaiting := by
  obtain ⟨f, -, h⟩ | ⟨e, -, h⟩ := decByte_cases x rest s
  · rw [h]
  · rw [h, decEnd_awaiting]

/-- Only the waiting shape of an EXEC transaction begins a call, with the latch clear. -/
theorem serve_keeps_waitOk {r : Request} {s t : State} (hwait : s.awaiting = none)
    (hdec : s.decIn = none) (h : serve r s = .next t) : WaitOk t := by
  obtain ⟨v, -, hexec⟩ | ⟨code, -, -, rfl⟩ | ⟨-, -, rfl⟩ | ⟨stream, -, rfl⟩ | ⟨program, -, rfl⟩ :=
    serve_next h
  · obtain ⟨hrun, ⟨r, rfl⟩ | ⟨code, answer, -, rfl⟩ | ⟨code, -, rfl⟩ | ⟨f, -, rfl⟩⟩ :=
      execute_next hexec
    · exact waitOk_of_awaiting hwait
    · exact waitOk_of_awaiting hwait
    · exact fun _ => ⟨hrun, hdec⟩
    · exact waitOk_of_awaiting hwait
  all_goals exact waitOk_of_awaiting hwait

/-- Settles O56: a call begins only where an EXEC request is served, and no other step leaves one
behind. -/
theorem everyStepKeepsTheInterruptCallAlone : Obligations.EveryStepKeepsTheInterruptCallAlone := by
  intro s t hw h
  obtain ⟨-, rfl⟩ | ⟨-, ⟨code, -, -, rfl⟩ | ⟨-, -, rfl⟩ | ⟨x, rest, hwait, -, rfl⟩ |
    ⟨hwait, -, rfl⟩ | ⟨-, -, -, rfl⟩ | ⟨r, rest, ⟨-, hwait, hdec, -⟩, hserve⟩⟩ := step_next h
  · exact waitOk_of_awaiting (resetBlock_awaiting s)
  · exact waitOk_of_awaiting (answerInterrupt_awaiting s code)
  · exact hw
  · exact waitOk_of_awaiting ((decByte_awaiting x rest s).trans hwait)
  · exact waitOk_of_awaiting hwait
  · exact hw
  · exact serve_keeps_waitOk (s := acceptRequest rest s) hwait hdec hserve

/-! ## The request a step accepts -/

/-- Settles O53: `nextRequest` is the first request with a step, in both directions. -/
theorem acceptedRequestIsTheFirstWithAStep : Obligations.AcceptedRequestIsTheFirstWithAStep := by
  intro s r rest
  refine ⟨fun ⟨hreset, hwait, hdec, hnext⟩ => ⟨hreset, hwait, hdec, ?_⟩,
    fun ⟨hreset, hwait, hdec, hr, before, behind, hpending, hrest, hbefore⟩ =>
      ⟨hreset, hwait, hdec, ?_⟩⟩
  · obtain ⟨hr, before, behind, hpending, hrest, hbefore⟩ := nextRequest_some hnext
    exact ⟨by simpa using hr, before, behind, hpending, hrest, by simpa using hbefore⟩
  · rw [hpending, hrest]
    exact nextRequest_append behind (by simpa using hr) (by simpa using hbefore)

theorem length_of_nextRequest {halted : Bool} {requests rest : List Request} {r : Request}
    (h : nextRequest halted requests = some (r, rest)) : requests.length = rest.length + 1 := by
  obtain ⟨-, before, behind, rfl, rfl, -⟩ := nextRequest_some h
  simp only [List.length_append, List.length_cons, Nat.add_assoc]

theorem sublist_of_nextRequest {halted : Bool} {requests rest : List Request} {r : Request}
    (h : nextRequest halted requests = some (r, rest)) : rest.Sublist requests := by
  obtain ⟨-, before, behind, rfl, rfl, -⟩ := nextRequest_some h
  exact (List.sublist_cons_self r behind).append_left before

/-- While the latch is clear the first request presented is the one accepted. -/
theorem eq_cons_of_nextRequest_running {requests rest : List Request} {r : Request}
    (h : nextRequest false requests = some (r, rest)) : requests = r :: rest := by
  cases requests with
  | nil => cases h
  | cons q qs =>
    rw [nextRequest_running] at h
    cases h
    rfl

/-! ## What a step returns -/

/-- What serving a request adds to the outputs: the one output of its port, nothing yet for DEC, and
nothing yet for an `Interrupt` whose call waits. -/
theorem serve_outputs {r : Request} {s t : State} (h : serve r s = .next t) :
    t.pending = s.pending ∧
    ((∃ stream, r = .dec stream ∧ t.decIn = some stream ∧ t.awaiting = s.awaiting ∧
        t.responses = s.responses) ∨
      (∃ v code, r = .exec v ∧ s.facadeReady = false ∧ t.awaiting = some code ∧
        t.decIn = s.decIn ∧ t.responses = s.responses) ∨
      (t.decIn = s.decIn ∧ t.awaiting = s.awaiting ∧
        ∃ o, Answers r o ∧ t.responses = s.responses ++ [o])) := by
  obtain ⟨v, rfl, hexec⟩ | ⟨code, rfl, -, rfl⟩ | ⟨rfl, -, rfl⟩ | ⟨stream, rfl, rfl⟩ |
    ⟨program, rfl, rfl⟩ := serve_next h
  · obtain ⟨-, ⟨r, rfl⟩ | ⟨code, answer, -, rfl⟩ | ⟨code, hready, rfl⟩ | ⟨f, -, rfl⟩⟩ :=
      execute_next hexec
    · exact ⟨rfl, .inr (.inr ⟨rfl, rfl, .exec (some r), trivial, rfl⟩)⟩
    · exact ⟨rfl, .inr (.inr ⟨rfl, rfl, .exec (some answer.1), trivial, rfl⟩)⟩
    · exact ⟨rfl, .inr (.inl ⟨v, code, rfl, hready, rfl, rfl, rfl⟩)⟩
    · exact ⟨rfl, .inr (.inr ⟨rfl, rfl, .exec none, trivial, rfl⟩)⟩
  · exact ⟨rfl, .inr (.inr ⟨rfl, rfl, .reportFatal, trivial, rfl⟩)⟩
  · exact ⟨rfl, .inr (.inr ⟨rfl, rfl, .halt, trivial, rfl⟩)⟩
  · exact ⟨rfl, .inl ⟨stream, rfl, rfl, rfl, rfl⟩⟩
  · refine ⟨rfl, .inr (.inr ⟨rfl, rfl, _, ?_, rfl⟩)⟩
    cases encodeProgram (programAtPort s.cfg program) <;> trivial

theorem answersDec_decResponse (outcome : Except FramerFault Program) :
    AnswersDec (decResponse outcome) := by
  cases outcome <;> trivial

theorem transactionCount_eq (s : State) :
    transactionCount s = s.pending.length + s.decIn.toList.length + s.awaiting.toList.length +
      s.responses.length := by
  rw [transactionCount]
  cases s.decIn <;> cases s.awaiting <;> rfl

/-- What a byte of a DEC transaction returns: nothing yet, or the one output of its fault. -/
theorem decByte_outputs (x : Byte) (rest : List Byte) (s : State) :
    (decByte x rest s).pending = s.pending ∧
    ((∃ bytes, (decByte x rest s).decIn = some bytes ∧
        (decByte x rest s).responses = s.responses) ∨
      ((decByte x rest s).decIn = none ∧
        ∃ o, AnswersDec o ∧ (decByte x rest s).responses = s.responses ++ [o])) := by
  obtain ⟨f, -, h⟩ | ⟨e, -, h⟩ := decByte_cases x rest s
  · rw [h]
    exact ⟨rfl, .inl ⟨rest, rfl, rfl⟩⟩
  · rw [h]
    exact ⟨rfl, .inr ⟨rfl, _, answersDec_decResponse _, rfl⟩⟩

/-- Settles O40: the count and the output of each case of what one step can do. -/
theorem transactionsReturnExactlyOnce : Obligations.TransactionsReturnExactlyOnce := by
  intro s t h hreset
  rw [transactionCount_eq, transactionCount_eq]
  obtain ⟨hset, -⟩ | ⟨-, ⟨code, hwait, hready, rfl⟩ | ⟨hwait, hready, rfl⟩ |
    ⟨x, rest, hwait, hdec, rfl⟩ | ⟨hwait, hdec, rfl⟩ | ⟨hwait, hdec, hpending, rfl⟩ |
    ⟨r, rest, haccepts, hserve⟩⟩ := step_next h
  · simp [hreset] at hset
  · exact ⟨by simp [hwait]; omega,
      .inr (.inl ⟨by simp [hwait], hready, rfl, rfl, rfl, _, answerInterrupt_responses s code⟩)⟩
  · exact ⟨rfl, .inl ⟨rfl, .inl ⟨hwait, hready⟩⟩⟩
  · have hwait' := (decByte_awaiting x rest s).trans hwait
    obtain ⟨hpending, ⟨bytes, hdec', hout⟩ | ⟨hdec', o, ho, hout⟩⟩ := decByte_outputs x rest s
    · exact ⟨by simp [hwait, hwait', hpending, hdec, hdec', hout],
        .inr (.inr (.inl ⟨hwait, by simp [hdec], hwait', hpending, .inl ⟨by simp [hdec'], hout⟩⟩))⟩
    · exact ⟨by simp [hwait, hwait', hpending, hdec, hdec', hout]; omega,
        .inr (.inr (.inl ⟨hwait, by simp [hdec], hwait', hpending, .inr ⟨hdec', o, ho, hout⟩⟩))⟩
  · exact ⟨by simp [decFinish, hwait, hdec]; omega,
      .inr (.inr (.inl ⟨hwait, by simp [hdec], hwait, rfl,
        .inr ⟨rfl, _, answersDec_decResponse _, rfl⟩⟩))⟩
  · exact ⟨rfl, .inl ⟨rfl, .inr ⟨hwait, hdec, hpending⟩⟩⟩
  · have ⟨_, hwait, hdec, hnext⟩ := haccepts
    have hlen := length_of_nextRequest hnext
    obtain ⟨hpending, hout⟩ := serve_outputs hserve
    simp only [acceptRequest_pending, acceptRequest_awaiting, acceptRequest_decIn,
      acceptRequest_responses, acceptRequest_facadeReady, hwait, hdec] at hpending hout
    refine ⟨?_, .inr (.inr (.inr ⟨r, rest, haccepts, hpending, ?_⟩))⟩
    · obtain ⟨stream, -, hdec', hwait', hres⟩ | ⟨v, code, -, -, hwait', hdec', hres⟩ |
        ⟨hdec', hwait', o, -, hres⟩ := hout
      · simp [hwait, hdec, hpending, hwait', hdec', hres, hlen]
      · simp [hwait, hdec, hpending, hwait', hdec', hres, hlen]
      · simp [hwait, hdec, hpending, hwait', hdec', hres, hlen]
        omega
    · exact hout

/-- Settles O41, from O40 and what a step does to the facade's record. -/
theorem outputsAndCallsKeepTheirOrder : Obligations.OutputsAndCallsKeepTheirOrder := by
  intro s t h hreset
  have hlog : s.fac.log <+: t.fac.log := by
    obtain hfac | ⟨-, hcall⟩ := step_fac h hreset
    · rw [hfac]
    · exact hcall.log_prefix
  have same (hpending : t.pending = s.pending) : t.pending.Sublist s.pending ∧
      (s.fac.halted = false → t.pending <:+ s.pending) :=
    hpending ▸ ⟨List.Sublist.refl _, fun _ => List.suffix_rfl⟩
  obtain ⟨-, ⟨rfl, -⟩ | ⟨-, -, -, -, hpending, r, hres⟩ |
    ⟨-, -, -, hpending, ⟨-, hres⟩ | ⟨-, o, -, hres⟩⟩ |
    ⟨r, rest, ⟨-, -, -, hnext⟩, rfl, hout⟩⟩ := transactionsReturnExactlyOnce s t h hreset
  · exact ⟨List.prefix_rfl, hlog, same rfl⟩
  · exact ⟨hres ▸ List.prefix_append .., hlog, same hpending⟩
  · exact ⟨hres ▸ List.prefix_rfl, hlog, same hpending⟩
  · exact ⟨hres ▸ List.prefix_append .., hlog, same hpending⟩
  · refine ⟨?_, hlog, sublist_of_nextRequest hnext, fun hrun => ?_⟩
    · obtain ⟨-, -, -, -, hres⟩ | ⟨-, -, -, -, -, -, hres⟩ | ⟨-, -, o, -, hres⟩ := hout
      · exact hres ▸ List.prefix_rfl
      · exact hres ▸ List.prefix_rfl
      · exact hres ▸ List.prefix_append ..
    · rw [hrun] at hnext
      rw [eq_cons_of_nextRequest_running hnext]
      exact List.suffix_cons ..

end Sys2Proof.Machine
end

section
/-! PROOFS. The framer's state under every step (10_state.md R20, R29, 45_framer.md R195, R208,
60_exceptions.md R228). -/

namespace Sys2Proof.Machine

/-- What is open and what is closed is loadable: the two clauses of `FramerOk` on a decode state. -/
def FramerLoadable (paramMax : Option Nat) (f : Framer) : Prop :=
  (f.ds = .accumulating → eof ∉ f.curParams ∧ Fits paramMax f.curParams) ∧
  ∀ v ∈ f.out, Loadable paramMax v

/-- A loadable decode state is one that some bytes lead to, as far as `Consumed` sees. -/
theorem framerLoadable_iff_consumed {paramMax : Option Nat} {f : Framer} :
    FramerLoadable paramMax f ↔ ∃ bytes, Consumed paramMax bytes f := by
  unfold FramerLoadable Consumed
  rw [and_comm, exists_and_left]
  refine and_congr_right fun _ => ?_
  rw [← loadable_openInstr_iff]
  cases f.ds <;> simp

theorem framerLoadable_reset (paramMax : Option Nat) : FramerLoadable paramMax .reset :=
  framerLoadable_iff_consumed.mpr ⟨[], consumed_reset paramMax⟩

theorem byteStep_keeps_framerLoadable {paramMax : Option Nat} {f g : Framer} {x : Byte}
    (hf : FramerLoadable paramMax f) (h : byteStep paramMax f x = .ok g) :
    FramerLoadable paramMax g := by
  obtain ⟨bytes, hc⟩ := framerLoadable_iff_consumed.mp hf
  exact framerLoadable_iff_consumed.mpr ⟨_, consumed_append_of_byteStep hc h⟩

/-- What DEC has delivered is loadable: the last clause of `FramerOk`. -/
def DeliveredLoadable (s : State) : Prop :=
  ∀ program, Response.decOk program ∈ s.responses → ∀ v ∈ program, Loadable s.cfg.paramMax v

theorem framerOk_iff {s : State} : FramerOk s ↔
    (s.decIn = none → s.framer.ds = .idle ∧ s.framer.out = []) ∧
    FramerLoadable s.cfg.paramMax s.framer ∧ DeliveredLoadable s := by
  simp only [FramerOk, FramerLoadable, DeliveredLoadable, and_assoc]

/-- The framer at its reset values is consistent, in a DEC transaction or not. -/
theorem framerOk_of_reset {s : State} (hf : s.framer = .reset) (hd : DeliveredLoadable s) :
    FramerOk s :=
  framerOk_iff.mpr ⟨fun _ => hf ▸ ⟨rfl, rfl⟩, hf ▸ framerLoadable_reset _, hd⟩

/-- A transaction that is not DEC keeps the framer consistent: it leaves it, and adds at most
outputs that are not of DEC. -/
theorem framerOk_of_not_dec {s t : State} (hs : FramerOk s) (hframer : t.framer = s.framer)
    (hdec : t.decIn = s.decIn) (hcfg : t.cfg = s.cfg)
    (hres : ∀ program, Response.decOk program ∈ t.responses → .decOk program ∈ s.responses) :
    FramerOk t := by
  obtain ⟨hidle, hload, hdelivered⟩ := framerOk_iff.mp hs
  refine framerOk_iff.mpr ⟨?_, ?_, fun program hp => ?_⟩
  · rwa [hframer, hdec]
  · rwa [hframer, hcfg]
  · rw [hcfg]
    exact hdelivered program (hres program hp)

theorem execShape_keeps_framerOk {s t : State} (hs : FramerOk s) (h : ExecShape s t) :
    FramerOk t := by
  obtain ⟨-, ⟨r, rfl⟩ | ⟨code, answer, -, rfl⟩ | ⟨code, -, rfl⟩ | ⟨f, -, rfl⟩⟩ := h <;>
    exact framerOk_of_not_dec hs rfl rfl rfl (by simp)

theorem DeliveredLoadable.respond {s t : State} {outcome : Except FramerFault Program}
    (hs : DeliveredLoadable s) (hcfg : t.cfg = s.cfg)
    (hres : t.responses = s.responses ++ [decResponse outcome])
    (hout : ∀ program, outcome = .ok program → ∀ v ∈ program, Loadable s.cfg.paramMax v) :
    DeliveredLoadable t := by
  intro program hp
  rw [hcfg]
  rw [hres, List.mem_append, List.mem_singleton] at hp
  obtain hold | hnew := hp
  · exact hs program hold
  · cases outcome with
    | ok p => cases hnew; exact hout program rfl
    | error e => cases hnew

theorem decEnd_keeps_framerOk {s : State} {outcome : Except FramerFault Program}
    (hs : FramerOk s)
    (hout : ∀ program, outcome = .ok program → ∀ v ∈ program, Loadable s.cfg.paramMax v) :
    FramerOk (decEnd outcome s) := by
  obtain ⟨-, -, hdelivered⟩ := framerOk_iff.mp hs
  exact framerOk_of_reset rfl (hdelivered.respond rfl (decEnd_responses s outcome) hout)

theorem decByte_keeps_framerOk {s : State} (hs : FramerOk s) (x : Byte) (rest : List Byte) :
    FramerOk (decByte x rest s) := by
  obtain ⟨f, hf, h⟩ | ⟨e, -, h⟩ := decByte_cases x rest s
  · obtain ⟨-, hload, hdelivered⟩ := framerOk_iff.mp hs
    rw [h]
    exact framerOk_iff.mpr ⟨nofun, byteStep_keeps_framerLoadable hload hf, hdelivered⟩
  · rw [h]
    exact decEnd_keeps_framerOk hs nofun

theorem decFinish_keeps_framerOk {s : State} (hs : FramerOk s) : FramerOk (decFinish s) := by
  refine decEnd_keeps_framerOk hs fun program hp => ?_
  obtain ⟨-, rfl⟩ := finishStream_ok_iff.mp hp
  obtain ⟨-, ⟨-, hclosed⟩, -⟩ := framerOk_iff.mp hs
  exact hclosed

theorem serve_keeps_framerOk {r : Request} {s t : State} (hs : FramerOk s)
    (h : serve r s = .next t) : FramerOk t := by
  obtain ⟨v, -, hexec⟩ | ⟨code, -, -, rfl⟩ | ⟨-, -, rfl⟩ | ⟨stream, -, rfl⟩ | ⟨program, -, rfl⟩ :=
    serve_next h
  · exact execShape_keeps_framerOk hs (execute_next hexec)
  · exact framerOk_of_not_dec hs rfl rfl rfl (by simp)
  · exact framerOk_of_not_dec hs rfl rfl rfl (by simp)
  · obtain ⟨-, -, hdelivered⟩ := framerOk_iff.mp hs
    exact framerOk_of_reset rfl hdelivered
  · refine framerOk_of_not_dec hs rfl rfl rfl ?_
    cases henc : encodeProgram (programAtPort s.cfg program) <;> simp [henc, encResponse]

/-- Settles O34, by what one step can do: DEC's own steps keep what is open and closed loadable, and
every other step leaves the framer. -/
theorem everyStepKeepsTheFramerConsistent : Obligations.EveryStepKeepsTheFramerConsistent := by
  intro s t hs h
  obtain ⟨-, rfl⟩ | ⟨-, ⟨code, -, -, rfl⟩ | ⟨-, -, rfl⟩ | ⟨x, rest, -, -, rfl⟩ | ⟨-, -, rfl⟩ |
    ⟨-, -, -, rfl⟩ | ⟨r, rest, -, hserve⟩⟩ := step_next h
  · obtain ⟨-, -, hdelivered⟩ := framerOk_iff.mp hs
    exact framerOk_of_reset rfl hdelivered
  · exact framerOk_of_not_dec hs rfl rfl rfl (by simp)
  · exact hs
  · exact decByte_keeps_framerOk hs x rest
  · exact decFinish_keeps_framerOk hs
  · exact hs
  · have haccept : FramerOk (acceptRequest rest s) := hs
    exact serve_keeps_framerOk haccept hserve

/-- Settles O35: each invariant at the reset values. -/
theorem resetStateIsConsistent : Obligations.ResetStateIsConsistent := by
  have hwidths : State.reset.cfg.WidthsOk := by decide
  exact ⟨facOk_reset, waitOk_of_awaiting rfl, framerOk_of_reset rfl nofun, hwidths,
    codesOk_reset hwidths⟩

end Sys2Proof.Machine
end

section
/-! PROOFS. The DEC transaction byte by byte, the function it computes, and the streams it accepts
(45_framer.md R191 to R209). -/

namespace Sys2Proof.Machine

/-! ## The remaining rows of the transition table of R191 -/

theorem byteStep_accumulating_data {paramMax : Option Nat} {f : Framer} {x : Byte}
    (hf : f.ds = .accumulating) (hx : x ≠ eof) (hfull : paramsFull paramMax f.curParams = false) :
    byteStep paramMax f x = .ok { f with curParams := f.curParams ++ [x] } := by
  simp [byteStep, hf, hx, hfull]

/-- R208: the open instruction is full when it holds exactly PARAM_MAX bytes. -/
theorem paramsFull_iff {paramMax : Option Nat} {params : List Byte} :
    paramsFull paramMax params = true ↔ paramMax = some params.length := by
  cases paramMax <;> simp [paramsFull, eq_comm]

/-! ## One step of a DEC transaction -/

section Serial
variable {s : State} {x : Byte} {xs : List Byte}

theorem step_of_decByte (hreset : s.resetLine = false) (hwait : s.awaiting = none)
    (hdec : s.decIn = some (x :: xs)) : step s = .next (decByte x xs s) := by
  simp [step, nextWork, hreset, hwait, hdec]

theorem step_of_decFinish (hreset : s.resetLine = false) (hwait : s.awaiting = none)
    (hdec : s.decIn = some []) : step s = .next (decFinish s) := by
  simp [step, nextWork, hreset, hwait, hdec]

/-- A byte without a fault moves the decode state only. -/
theorem step_of_byteStep_ok (hreset : s.resetLine = false) (hwait : s.awaiting = none)
    (hdec : s.decIn = some (x :: xs)) {f : Framer}
    (h : byteStep s.cfg.paramMax s.framer x = .ok f) :
    step s = .next { s with framer := f, decIn := some xs } := by
  rw [step_of_decByte hreset hwait hdec, decByte, h]

/-- A byte with a fault ends the transaction (R202, R228). -/
theorem step_of_byteStep_error (hreset : s.resetLine = false) (hwait : s.awaiting = none)
    (hdec : s.decIn = some (x :: xs)) {e : FramerFault}
    (h : byteStep s.cfg.paramMax s.framer x = .error e) :
    step s = .next (decEnd (.error e) s) := by
  rw [step_of_decByte hreset hwait hdec, decByte, h]

end Serial

/-- Settles O42: each clause is one row of `byteStep`. -/
theorem decodeByteTransitions : Obligations.DecodeByteTransitions := by
  intro s x xs hreset hwait hdec
  have moves {f : Framer} (h : byteStep s.cfg.paramMax s.framer x = .ok f) :=
    step_of_byteStep_ok hreset hwait hdec h
  have faults {e : FramerFault} (h : byteStep s.cfg.paramMax s.framer x = .error e) :=
    step_of_byteStep_error hreset hwait hdec h
  refine ⟨fun hf hx => ?start, fun hf hlo hhi => ?strayByte, fun hf hx => ?strayEnd,
    fun hf hx => ?opens, fun hf hx => ?unknown, fun hf hx hmax => ?data,
    fun hf hx hmax => ?overflow, fun hf hx => ?closes⟩
  case start =>
    obtain rfl : x = sof := BitVec.eq_of_toNat_eq hx
    exact moves (byteStep_idle_sof hf)
  case strayByte => exact faults (byteStep_idle_stray hf (by bv_omega) (by bv_omega))
  case strayEnd =>
    obtain rfl : x = eof := BitVec.eq_of_toNat_eq hx
    exact faults (byteStep_idle_eof hf)
  case opens =>
    obtain ⟨tag, htag⟩ := Option.isSome_iff_exists.mp (optag_isSome_iff.mpr hx)
    obtain rfl := opbyte_of_optag htag
    exact ⟨tag, rfl, moves (byteStep_readingOpcode_opbyte hf tag)⟩
  case unknown => exact faults (byteStep_readingOpcode_unknown hf hx)
  case data =>
    have hfull := Bool.eq_false_iff.mpr (mt paramsFull_iff.mp hmax)
    exact moves (byteStep_accumulating_data hf (by bv_omega) hfull)
  case overflow =>
    exact faults (byteStep_accumulating_full hf (by bv_omega) (paramsFull_iff.mpr hmax))
  case closes =>
    obtain rfl : x = eof := BitVec.eq_of_toNat_eq hx
    exact moves (byteStep_accumulating_eof hf)

theorem finishStream_of_readingOpcode {f : Framer} (h : f.ds = .readingOpcode) :
    finishStream f = .error .decodeTruncatedOpcode := by
  rw [finishStream, h]

/-- Settles O43: the end of the stream is an Ok anywhere but in ReadingOpcode. -/
theorem decodeEndOfStream : Obligations.DecodeEndOfStream := by
  intro s hreset hwait hdec
  rw [step_of_decFinish hreset hwait hdec, decFinish]
  refine ⟨fun hf => ?_, fun hf => ?_⟩
  · rw [finishStream_ok_iff.mpr ⟨hf, rfl⟩]
    rfl
  · rw [finishStream_of_readingOpcode hf]
    rfl

/-! ## The whole DEC transaction -/

/-- `decode` of the bytes not yet consumed, from a decode state on. -/
def decodeFrom (paramMax : Option Nat) (f : Framer) (stream : List Byte) :
    Except FramerFault Program :=
  match runBytes paramMax f stream with
  | .error e => .error e
  | .ok g => finishStream g

theorem decodeFrom_reset (paramMax : Option Nat) (stream : List Byte) :
    decodeFrom paramMax .reset stream = decodeStream paramMax stream := rfl

theorem decodeFrom_cons_of_ok {paramMax : Option Nat} {f g : Framer} {x : Byte}
    (h : byteStep paramMax f x = .ok g) (xs : List Byte) :
    decodeFrom paramMax f (x :: xs) = decodeFrom paramMax g xs := by
  rw [decodeFrom, runBytes_cons_of_ok h, decodeFrom]

theorem decodeFrom_cons_of_error {paramMax : Option Nat} {f : Framer} {x : Byte} {e : FramerFault}
    (h : byteStep paramMax f x = .error e) (xs : List Byte) :
    decodeFrom paramMax f (x :: xs) = .error e := by
  rw [decodeFrom, runBytes_cons_of_error h]

/-- A DEC transaction in progress ends with `decode` of the bytes left, in at most one step for each
and one more. -/
theorem run_of_decIn {s : State} {stream : List Byte} (hreset : s.resetLine = false)
    (hwait : s.awaiting = none) (hdec : s.decIn = some stream) :
    ∃ k ≤ stream.length + 1, Host.Core.run core k s =
      .next (decEnd (decodeFrom s.cfg.paramMax s.framer stream) s) := by
  induction stream generalizing s with
  | nil => exact ⟨1, le_rfl, run_succ (step_of_decFinish hreset hwait hdec) 0⟩
  | cons x xs ih =>
    cases hstep : byteStep s.cfg.paramMax s.framer x with
    | error e =>
      refine ⟨1, by simp, ?_⟩
      rw [decodeFrom_cons_of_error hstep]
      exact run_succ (step_of_byteStep_error hreset hwait hdec hstep) 0
    | ok f =>
      obtain ⟨k, hk, hrun⟩ := ih (s := { s with framer := f, decIn := some xs }) hreset hwait rfl
      refine ⟨k + 1, by simpa using hk, ?_⟩
      rw [decodeFrom_cons_of_ok hstep, run_succ (step_of_byteStep_ok hreset hwait hdec hstep)]
      exact hrun

/-- Settles O44: the step that accepts the stream, then the transaction from the reset values. -/
theorem serialDecodeComputesDecode : Obligations.SerialDecodeComputesDecode := by
  intro s stream rest haccepts
  have hbegin : step s = .next (decBegin stream (acceptRequest rest s)) :=
    step_of_accepts haccepts
  obtain ⟨hreset, hwait, hdec, -⟩ := haccepts
  obtain ⟨k, hk, hrun⟩ :=
    run_of_decIn (s := decBegin stream (acceptRequest rest s)) hreset hwait rfl
  refine ⟨k + 1, by omega, ?_⟩
  rw [run_succ hbegin, hrun, decBegin_framer, decodeFrom_reset, decBegin_cfg, acceptRequest_cfg]
  cases decodeStream s.cfg.paramMax stream <;>
    simp [decEnd, decBegin, acceptRequest, respond, decResponse, hdec]

/-- Settles O45: the bytes after a fault are not run. -/
theorem firstOffendingByteDecides : Obligations.FirstOffendingByteDecides := by
  intro paramMax xs ys reason h
  exact decodeStream_of_runBytes_error (by rw [runBytes_append, h])

/-! ## The streams `decode` accepts -/

/-- The frames of a loadable program and an open tail decode to the program, the tail being dropped
(R199). -/
theorem decodeStream_frames_append {paramMax : Option Nat} {program : Program} {tail : List Byte}
    (h : ∀ v ∈ program, Loadable paramMax v) (htail : tail = [] ∨ OpenFrame paramMax tail) :
    decodeStream paramMax (frames program ++ tail) = .ok program := by
  obtain ⟨f, hrun, hf, hout⟩ := runBytes_frames Framer.reset rfl h
  have hprogram : f.out = program := by simpa [Framer.reset] using hout
  rw [decodeStream_ok_iff, runBytes_append_of_ok hrun]
  obtain rfl | ⟨op, params, rfl, htag, hstorable, hfits⟩ := htail
  · exact ⟨f, rfl, by simp [hf], hprogram⟩
  · obtain ⟨tag, hop⟩ := Option.isSome_iff_exists.mp htag
    exact ⟨_, runBytes_openFrame f hf hop params hstorable hfits, by simp, hprogram⟩

/-- Settles O49: what an accepted stream consumed is such frames, and such frames are accepted. -/
theorem decoderAcceptsFramesAndOneOpenTail : Obligations.DecoderAcceptsFramesAndOneOpenTail := by
  intro paramMax stream program
  refine ⟨fun h => ?_, fun ⟨hload, tail, hstream, htail⟩ => ?_⟩
  · obtain ⟨f, hrun, hne, rfl⟩ := decodeStream_ok_iff.mp h
    obtain ⟨hload, hbytes⟩ := consumed_of_runBytes hrun
    refine ⟨hload, ?_⟩
    cases hf : f.ds with
    | idle =>
      simp only [hf] at hbytes
      exact ⟨[], by simpa using hbytes, .inl rfl⟩
    | readingOpcode => exact absurd hf hne
    | accumulating =>
      simp only [hf] at hbytes
      obtain ⟨hopen, hstream⟩ := hbytes
      exact ⟨_, hstream, .inr ⟨opbyte f.curOp, f.curParams, rfl, hopen⟩⟩
  · rw [hstream]
    exact decodeStream_frames_append hload htail

end Sys2Proof.Machine
end

section
/-! PROOFS. The reference harness (70_reset_and_hazards.md R275; entry 22). -/

namespace Sys2Proof.Machine

/-! ## One instruction presented to the block -/

theorem accepts_presentValue {s : State} (hrun : s.fac.halted = false) (v : InstrValue) :
    Accepts (presentValue v s) (.exec v) s.pending :=
  ⟨rfl, rfl, rfl, by simp [hrun]⟩

/-- `execute` while the latch is clear returns one EXEC output, or waits for the facade's answer to
the one byte of an `Interrupt`. -/
theorem execute_outcome {s : State} (hrun : s.fac.halted = false) (hwait : s.awaiting = none)
    (v : InstrValue) : ∃ t, execute v s = .next t ∧
      ((t.awaiting = none ∧ ∃ r, t.responses = s.responses ++ [.exec r]) ∨
        ∃ code, v = ⟨6, [code]⟩ ∧ s.facadeReady = false ∧ t = awaitAnswer code s) := by
  obtain ⟨t, ht⟩ := execute_eq_whileRunning v s
  rw [whileRunning_of_running hrun] at ht
  refine ⟨t, ht, ?_⟩
  cases hrow : Instr.ofValue v with
  | none =>
    rw [execute, hrow, unknownOpcode_of_running hrun] at ht
    cases ht
    exact .inl ⟨hwait, none, rfl⟩
  | some i =>
    rw [execute_of_ofValue hrow] at ht
    obtain ⟨patterns, -⟩ := execMakesOneOfThreeCallPatterns
    obtain ⟨r, -, rfl⟩ | ⟨code, r, halted, -, -, rfl⟩ | ⟨c, k, rfl⟩ | ⟨code, rfl, hready, rfl⟩ :=
      patterns i s t ht
    · exact .inl ⟨hwait, some r, rfl⟩
    · exact .inl ⟨hwait, some r, rfl⟩
    · exact .inl ⟨hwait, none, rfl⟩
    · obtain ⟨-, hvalue⟩ := wellFormed_toValue_of_ofValue hrow
      exact .inr ⟨code, hvalue.symm, hready, rfl⟩

/-- The two ends of the step that an instruction presented by the harness makes. -/
theorem step_presentValue {s : State} (hrun : s.fac.halted = false) (v : InstrValue) :
    ∃ t, step (presentValue v s) = .next t ∧
      ((t.awaiting = none ∧ ∃ r, t.responses = s.responses ++ [.exec r]) ∨
        ∃ code, valueAtPort s.cfg v = ⟨6, [code]⟩ ∧ s.facadeReady = false ∧
          t.awaiting = some code ∧ t.fac = s.fac) := by
  obtain ⟨t, ht, hout⟩ := execute_outcome (s := acceptRequest s.pending (presentValue v s)) hrun rfl
    (valueAtPort s.cfg v)
  refine ⟨t, (step_of_accepts (accepts_presentValue hrun v)).trans ht, hout.imp id ?_⟩
  rintro ⟨code, hvalue, hready, rfl⟩
  exact ⟨code, hvalue, hready, rfl, rfl⟩

/-! ## The states a harness run goes through -/

/-- The state after one instruction presented to the block. -/
def harnessNext (s : State) (v : InstrValue) : State :=
  match step (presentValue v s) with
  | .next t => t
  | _ => s

/-- The state before instruction `k` of a program, as long as there is one. -/
def harnessState (s : State) (program : Program) : Nat → State
  | 0 => s
  | k + 1 =>
    match program[k]? with
    | some v => harnessNext (harnessState s program k) v
    | none => harnessState s program k

theorem harnessState_succ {s t : State} {program : Program} {k : Nat} {v : InstrValue}
    (hv : program[k]? = some v) (h : step (presentValue v (harnessState s program k)) = .next t) :
    harnessState s program (k + 1) = t := by
  simp only [harnessState, hv, harnessNext, h]

theorem sameInputs_harnessNext (s : State) (v : InstrValue) : SameInputs s (harnessNext s v) := by
  unfold harnessNext
  split
  case h_1 t ht => exact sameInputs_of_step (s := presentValue v s) ht
  case h_2 => exact ⟨rfl, rfl, rfl⟩

theorem SameInputs.trans {s t u : State} (h : SameInputs s t) (h' : SameInputs t u) :
    SameInputs s u := by
  obtain ⟨hcfg, hfacade, hready⟩ := h
  obtain ⟨hcfg', hfacade', hready'⟩ := h'
  exact ⟨hcfg'.trans hcfg, hfacade'.trans hfacade, hready'.trans hready⟩

theorem sameInputs_harnessState (s : State) (program : Program) (k : Nat) :
    SameInputs s (harnessState s program k) := by
  induction k with
  | zero => exact ⟨rfl, rfl, rfl⟩
  | succ k ih =>
    rw [harnessState]
    split
    · exact ih.trans (sameInputs_harnessNext _ _)
    · exact ih

/-- A trace is continued by one instruction that returned. -/
theorem HarnessTrace.succ {s₀ : State} {program : Program} {n : Nat}
    {results : List (Option (List Byte))} {trace : Nat → State} {v : InstrValue}
    {r : Option (List Byte)} (h : HarnessTrace s₀ program n results trace)
    (hv : program[n]? = some v) (hrun : (trace n).fac.halted = false)
    (hstep : step (presentValue v (trace n)) = .next (trace (n + 1)))
    (hres : (trace (n + 1)).responses = (trace n).responses ++ [.exec r]) :
    HarnessTrace s₀ program (n + 1) (results ++ [r]) trace := by
  obtain ⟨hzero, hlen, hall⟩ := h
  refine ⟨hzero, by simp [hlen], fun k w hk hw => ?_⟩
  obtain hlt | rfl := Nat.lt_succ_iff_lt_or_eq.mp hk
  · obtain ⟨hrun', hstep', q, hq, hres'⟩ := hall k w hlt hw
    exact ⟨hrun', hstep', q, by rw [List.getElem?_append_left (hlen ▸ hlt), hq], hres'⟩
  · obtain rfl : v = w := Option.some.inj (hv.symm.trans hw)
    exact ⟨hrun, hstep, r, by simp [← hlen], hres⟩

/-! ## The loop of R275 -/

/-- What is claimed of the end of the harness loop, with the states it went through. -/
def HarnessEnd (s₀ : State) (program : Program) (trace : Nat → State) : RunEnd → Prop
  | .done ip results fac =>
    ip ≤ program.length ∧ HarnessTrace s₀ program ip results trace ∧ fac = (trace ip).fac ∧
      (fac.halted = false → ip = program.length)
  | .waiting ip results fac =>
    s₀.facadeReady = false ∧ HarnessTrace s₀ program ip results trace ∧ fac = (trace ip).fac ∧
      fac.halted = false ∧
      ∃ v code, program[ip]? = some v ∧ valueAtPort s₀.cfg v = ⟨6, [code]⟩
  | .loadFault _ | .stuck => False

theorem lastResult_of_responses {s t : State} {r : Option (List Byte)}
    (h : t.responses = s.responses ++ [.exec r]) : lastResult t = r := by
  simp [lastResult, h]

/-- From instruction `n` on the loop ends as claimed. -/
theorem harnessEnd_runProgram {s₀ : State} {program : Program} {n : Nat}
    {results : List (Option (List Byte))}
    (htrace : HarnessTrace s₀ program n results (harnessState (resetBlock s₀) program))
    {vs : Program} (hvs : program.drop n = vs) (hn : n ≤ program.length) :
    HarnessEnd s₀ program (harnessState (resetBlock s₀) program)
      (runProgram n results (harnessState (resetBlock s₀) program n) vs) := by
  induction vs generalizing n results with
  | nil =>
    have hend : program.length ≤ n := List.drop_eq_nil_iff.mp hvs
    exact ⟨hn, htrace, rfl, fun _ => Nat.le_antisymm hn hend⟩
  | cons v vs ih =>
    have hv : program[n]? = some v := by rw [← List.head?_drop, hvs, List.head?_cons]
    have hnext : program.drop (n + 1) = vs := by rw [← List.tail_drop, hvs, List.tail_cons]
    obtain ⟨hlt, -⟩ := List.getElem?_eq_some_iff.mp hv
    rw [runProgram]
    obtain hhalted | hrun := (harnessState (resetBlock s₀) program n).fac.halted.eq_false_or_eq_true
    · rw [if_pos hhalted]
      exact ⟨hn, htrace, rfl, fun hrun => by simp [hhalted] at hrun⟩
    · obtain ⟨t, hstep, hout⟩ := step_presentValue hrun v
      simp only [hrun, Bool.false_eq_true, if_false, hstep]
      obtain ⟨hwait, r, hres⟩ | ⟨code, hvalue, hready, hwait, hfac⟩ := hout
      · obtain rfl := harnessState_succ hv hstep
        rw [hwait, lastResult_of_responses hres]
        exact ih (htrace.succ hv hrun hstep hres) hnext hlt
      · obtain ⟨hcfg, -, hready'⟩ := sameInputs_harnessState (resetBlock s₀) program n
        rw [hwait]
        exact ⟨hready'.symm.trans hready, htrace, hfac, hfac ▸ hrun, v, code, hv, hcfg ▸ hvalue⟩

theorem runHarness_of_error {s₀ : State} {stream : List Byte} {reason : FramerFault}
    (h : decodeStream s₀.cfg.paramMax stream = .error reason) :
    runHarness s₀ stream = .loadFault reason := by
  rw [runHarness, h]

theorem runHarness_of_ok {s₀ : State} {stream : List Byte} {program : Program}
    (h : decodeStream s₀.cfg.paramMax stream = .ok program) :
    runHarness s₀ stream = runProgram 0 [] (resetBlock s₀) program := by
  rw [runHarness, h]

/-- The loop starts from the reset block with nothing executed. -/
theorem harnessEnd_start (s₀ : State) (program : Program) :
    HarnessEnd s₀ program (harnessState (resetBlock s₀) program)
      (runProgram 0 [] (resetBlock s₀) program) :=
  harnessEnd_runProgram (n := 0) ⟨rfl, rfl, nofun⟩ List.drop_zero (Nat.zero_le _)

/-- Settles O52: a load fault, or the end of the loop with the states it went through as the
trace. -/
theorem harnessRunEndsCleanOrHalted : Obligations.HarnessRunEndsCleanOrHalted := by
  intro s₀ stream
  cases hdecode : decodeStream s₀.cfg.paramMax stream with
  | error reason => rw [runHarness_of_error hdecode]
  | ok program =>
    have hend := harnessEnd_start s₀ program
    rw [runHarness_of_ok hdecode]
    cases hrun : runProgram 0 [] (resetBlock s₀) program with
    | loadFault reason => rw [hrun] at hend; exact hend.elim
    | stuck => rw [hrun] at hend; exact hend
    | done ip results fac =>
      rw [hrun] at hend
      exact ⟨program, _, rfl, hend⟩
    | waiting ip results fac =>
      rw [hrun] at hend
      obtain ⟨hready, htrace, hfac, hclear, v, code, hv, hvalue⟩ := hend
      exact ⟨hready, program, _, v, code, rfl, htrace, hfac, hclear, hv, hvalue⟩

end Sys2Proof.Machine
end
